-- ==== Sys2Proof/Word.lean ====
section
/-! DEFINITION. The word types of the block (00_scope.md R11): a byte is 8 bits, a word is 16 bits, a command is
32 bits, and every value is unsigned. -/

namespace Sys2Proof

/-- A byte (00_scope.md R11). -/
abbrev Byte := BitVec 8

/-- A 16-bit word, the spec's u16 (00_scope.md R11). -/
abbrev U16 := BitVec 16

/-- The value of a command register write (30_encoding.md R80). -/
abbrev CmdWord := BitVec 32

end Sys2Proof
end

