-- ==== Sys2Proof/Syntax.lean ====
section
/-! DEFINITION. The commands of the block: one constructor for each row of the opcode map (30_encoding.md R84), its
operands as the formats of R82 give them. -/

namespace Sys2Proof

/-- The 19 commands (30_encoding.md R84). `b` is a byte, `w` a word, `len` a u6, `n` a u24, `t` a MEAS_MODE byte. -/
inductive Instr where
  | cdcDecodeError (b : Byte)
  | cdcDecodeStatus (b : Byte)
  | cdcDecodeMode (b : Byte)
  | cdcEncodeMode (dm : BitVec 3) (it th : Bool)
  | cdcDecodeRaw (w : U16)
  | cdcDecodeReading (len : BitVec 6)
  | cdcDecodeFrameValues (len : BitVec 6)
  | cdcCheckFrame (len : BitVec 6)
  | fsPush (b : Byte)
  | fsIsStalled (n : BitVec 24)
  | fsReset
  | prNextReading (n : BitVec 24)
  | gsStartApp (n : BitVec 24)
  | gsSwitchMode (t : Byte)
  | gsPollOnce
  | gsLoadBaseline
  | gsSaveBaseline
  | gsSwReset
  | gsCheckHwId
  deriving DecidableEq, Repr

end Sys2Proof
end

