-- ==== Sys2Proof/WellFormed.lean ====
section
/-! DEFINITION. Which commands have a word: the reserved bits inside an operand are 0 (30_encoding.md R82, R83). The
only operand with reserved bits of its own is the MEAS_MODE byte of GS_SWITCH_MODE. A length above 32 is well-formed:
the operation rejects it with BAD_LENGTH (R83). -/

namespace Sys2Proof

/-- The reserved bits 7, 1 and 0 of a MEAS_MODE operand are 0 (30_encoding.md R82, format FT). -/
def modeByteLegal (t : Byte) : Bool := t &&& 0x83#8 == 0#8

/-- The command has a legal word (30_encoding.md R82). -/
def Instr.wellFormed : Instr → Bool
  | .cdcDecodeError _ => true
  | .cdcDecodeStatus _ => true
  | .cdcDecodeMode _ => true
  | .cdcEncodeMode _ _ _ => true
  | .cdcDecodeRaw _ => true
  | .cdcDecodeReading _ => true
  | .cdcDecodeFrameValues _ => true
  | .cdcCheckFrame _ => true
  | .fsPush _ => true
  | .fsIsStalled _ => true
  | .fsReset => true
  | .prNextReading _ => true
  | .gsStartApp _ => true
  | .gsSwitchMode t => modeByteLegal t
  | .gsPollOnce => true
  | .gsLoadBaseline => true
  | .gsSaveBaseline => true
  | .gsSwReset => true
  | .gsCheckHwId => true

end Sys2Proof
end

