-- ==== Sys2Proof/Decode.lean ====
section
/-! DEFINITION. The command decoder and encoder, from the formats of 30_encoding.md R82 and the opcode map of R84: "A
command word c selects the row whose (c & mask) = match". -/

namespace Sys2Proof

/-- The operand formats (30_encoding.md R82). -/
inductive Format where
  | F0 | FB | FW | FL | FN | FM | FT
  deriving DecidableEq, Repr

/-- The mask of a format's fixed bits, the opcode among them (30_encoding.md R82). -/
def Format.mask : Format → CmdWord
  | .F0 => 0xFFFFFFFF#32
  | .FB => 0xFFFF00FF#32
  | .FW => 0xFF0000FF#32
  | .FL => 0xFFFFC0FF#32
  | .FN => 0x000000FF#32
  | .FM => 0xFFFFE0FF#32
  | .FT => 0xFFFF83FF#32

/-- The rows of the opcode map, by name (30_encoding.md R84). -/
inductive Op where
  | cdcDecodeError | cdcDecodeStatus | cdcDecodeMode | cdcEncodeMode | cdcDecodeRaw | cdcDecodeReading
  | cdcDecodeFrameValues | cdcCheckFrame | fsPush | fsIsStalled | fsReset | prNextReading
  | gsStartApp | gsSwitchMode | gsPollOnce | gsLoadBaseline | gsSaveBaseline | gsSwReset | gsCheckHwId
  deriving DecidableEq, Repr

/-- The column "opcode" of the map (30_encoding.md R84). -/
def Op.opcode : Op → Byte
  | .cdcDecodeError => 0x01#8
  | .cdcDecodeStatus => 0x02#8
  | .cdcDecodeMode => 0x03#8
  | .cdcEncodeMode => 0x04#8
  | .cdcDecodeRaw => 0x05#8
  | .cdcDecodeReading => 0x06#8
  | .cdcDecodeFrameValues => 0x07#8
  | .cdcCheckFrame => 0x08#8
  | .fsPush => 0x10#8
  | .fsIsStalled => 0x11#8
  | .fsReset => 0x12#8
  | .prNextReading => 0x13#8
  | .gsStartApp => 0x20#8
  | .gsSwitchMode => 0x21#8
  | .gsPollOnce => 0x22#8
  | .gsLoadBaseline => 0x23#8
  | .gsSaveBaseline => 0x24#8
  | .gsSwReset => 0x25#8
  | .gsCheckHwId => 0x26#8

/-- The column "format" of the map (30_encoding.md R84). -/
def Op.format : Op → Format
  | .cdcDecodeError => .FB
  | .cdcDecodeStatus => .FB
  | .cdcDecodeMode => .FB
  | .cdcEncodeMode => .FM
  | .cdcDecodeRaw => .FW
  | .cdcDecodeReading => .FL
  | .cdcDecodeFrameValues => .FL
  | .cdcCheckFrame => .FL
  | .fsPush => .FB
  | .fsIsStalled => .FN
  | .fsReset => .F0
  | .prNextReading => .FN
  | .gsStartApp => .FN
  | .gsSwitchMode => .FT
  | .gsPollOnce => .F0
  | .gsLoadBaseline => .F0
  | .gsSaveBaseline => .F0
  | .gsSwReset => .F0
  | .gsCheckHwId => .F0

/-- Every row of the map, in its order. -/
def Op.all : List Op :=
  [.cdcDecodeError, .cdcDecodeStatus, .cdcDecodeMode, .cdcEncodeMode, .cdcDecodeRaw, .cdcDecodeReading,
   .cdcDecodeFrameValues, .cdcCheckFrame, .fsPush, .fsIsStalled, .fsReset, .prNextReading,
   .gsStartApp, .gsSwitchMode, .gsPollOnce, .gsLoadBaseline, .gsSaveBaseline, .gsSwReset, .gsCheckHwId]

/-- The word `c` matches the row: (c & mask) = match, where match is the opcode (30_encoding.md R84). -/
def Op.matchesWord (o : Op) (c : CmdWord) : Bool := c &&& o.format.mask == o.opcode.setWidth 32

/-- `CMD[7:0]` (30_encoding.md R80). -/
def opcodeField (c : CmdWord) : Byte := c.extractLsb' 0 8

/-- `b` of FB and `t` of FT: `CMD[15:8]` (30_encoding.md R82). -/
def byteField (c : CmdWord) : Byte := c.extractLsb' 8 8

/-- `w` of FW: `CMD[23:8]` (30_encoding.md R82). -/
def wordField (c : CmdWord) : U16 := c.extractLsb' 8 16

/-- `len` of FL: `CMD[13:8]` (30_encoding.md R82). -/
def lenField (c : CmdWord) : BitVec 6 := c.extractLsb' 8 6

/-- `n` of FN: `CMD[31:8]` (30_encoding.md R82). -/
def countField (c : CmdWord) : BitVec 24 := c.extractLsb' 8 24

/-- `dm` of FM: `CMD[10:8]` (30_encoding.md R82). -/
def dmField (c : CmdWord) : BitVec 3 := c.extractLsb' 8 3

/-- The command of a row, its operands taken from the word (30_encoding.md R82, R83). -/
def Op.build (c : CmdWord) : Op → Instr
  | .cdcDecodeError => .cdcDecodeError (byteField c)
  | .cdcDecodeStatus => .cdcDecodeStatus (byteField c)
  | .cdcDecodeMode => .cdcDecodeMode (byteField c)
  | .cdcEncodeMode => .cdcEncodeMode (dmField c) (c.getLsbD 11) (c.getLsbD 12)
  | .cdcDecodeRaw => .cdcDecodeRaw (wordField c)
  | .cdcDecodeReading => .cdcDecodeReading (lenField c)
  | .cdcDecodeFrameValues => .cdcDecodeFrameValues (lenField c)
  | .cdcCheckFrame => .cdcCheckFrame (lenField c)
  | .fsPush => .fsPush (byteField c)
  | .fsIsStalled => .fsIsStalled (countField c)
  | .fsReset => .fsReset
  | .prNextReading => .prNextReading (countField c)
  | .gsStartApp => .gsStartApp (countField c)
  | .gsSwitchMode => .gsSwitchMode (byteField c)
  | .gsPollOnce => .gsPollOnce
  | .gsLoadBaseline => .gsLoadBaseline
  | .gsSaveBaseline => .gsSaveBaseline
  | .gsSwReset => .gsSwReset
  | .gsCheckHwId => .gsCheckHwId

/-- Why a word is illegal (30_encoding.md R86). -/
inductive DecodeError where
  /-- No row of the opcode map has this opcode. -/
  | unassignedOpcode
  /-- The opcode is assigned and a reserved bit of its format is set. -/
  | reservedBit
  deriving DecidableEq, Repr

/-- The decoder: total on every word (30_encoding.md R84, R86). -/
def decode (c : CmdWord) : Except DecodeError Instr :=
  match Op.all.find? (fun o => o.matchesWord c) with
  | some o => .ok (o.build c)
  | none =>
    if Op.all.any (fun o => opcodeField c == o.opcode) then .error .reservedBit else .error .unassignedOpcode

/-- The word of a command, laid out field by field from `CMD[31]` down (30_encoding.md R82, R84). -/
def encode : Instr → CmdWord
  | .cdcDecodeError b => 0#16 ++ b ++ 0x01#8
  | .cdcDecodeStatus b => 0#16 ++ b ++ 0x02#8
  | .cdcDecodeMode b => 0#16 ++ b ++ 0x03#8
  | .cdcEncodeMode dm it th => 0#19 ++ BitVec.ofBool th ++ BitVec.ofBool it ++ dm ++ 0x04#8
  | .cdcDecodeRaw w => 0#8 ++ w ++ 0x05#8
  | .cdcDecodeReading len => 0#18 ++ len ++ 0x06#8
  | .cdcDecodeFrameValues len => 0#18 ++ len ++ 0x07#8
  | .cdcCheckFrame len => 0#18 ++ len ++ 0x08#8
  | .fsPush b => 0#16 ++ b ++ 0x10#8
  | .fsIsStalled n => n ++ 0x11#8
  | .fsReset => 0#24 ++ 0x12#8
  | .prNextReading n => n ++ 0x13#8
  | .gsStartApp n => n ++ 0x20#8
  | .gsSwitchMode t => 0#16 ++ t ++ 0x21#8
  | .gsPollOnce => 0#24 ++ 0x22#8
  | .gsLoadBaseline => 0#24 ++ 0x23#8
  | .gsSaveBaseline => 0#24 ++ 0x24#8
  | .gsSwReset => 0#24 ++ 0x25#8
  | .gsCheckHwId => 0#24 ++ 0x26#8

/-- The row of the map a command belongs to. -/
def Instr.op : Instr → Op
  | .cdcDecodeError _ => .cdcDecodeError
  | .cdcDecodeStatus _ => .cdcDecodeStatus
  | .cdcDecodeMode _ => .cdcDecodeMode
  | .cdcEncodeMode _ _ _ => .cdcEncodeMode
  | .cdcDecodeRaw _ => .cdcDecodeRaw
  | .cdcDecodeReading _ => .cdcDecodeReading
  | .cdcDecodeFrameValues _ => .cdcDecodeFrameValues
  | .cdcCheckFrame _ => .cdcCheckFrame
  | .fsPush _ => .fsPush
  | .fsIsStalled _ => .fsIsStalled
  | .fsReset => .fsReset
  | .prNextReading _ => .prNextReading
  | .gsStartApp _ => .gsStartApp
  | .gsSwitchMode _ => .gsSwitchMode
  | .gsPollOnce => .gsPollOnce
  | .gsLoadBaseline => .gsLoadBaseline
  | .gsSaveBaseline => .gsSaveBaseline
  | .gsSwReset => .gsSwReset
  | .gsCheckHwId => .gsCheckHwId

/-- The word the opcode table numbers `w`, of `nbits` bits: the bits above are 0. -/
def tableWord (nbits w : Nat) : CmdWord := BitVec.ofNat 32 (w % 2 ^ nbits)

/-- What the decoder reads from an instruction of the opcode table: every command is one 32-bit value written to `CMD`
(30_encoding.md R80; 20_memory.md R68: no fetch, so no byte order), so the table's numbering is the word's own. -/
def decodeTableWord (nbits w : Nat) : Option Instr :=
  match decode (tableWord nbits w) with
  | .ok i => some i
  | .error _ => none

end Sys2Proof
end

