-- ==== Sys2Proof/Machine/Records.lean ====
section
/-! DEFINITION. The typed records of the block: what the codec decodes (10_state.md R31), what results carry
(R32, 60_exceptions.md R240), the transactions of the transport (00_scope.md R14), what the outside may do
(20_memory.md R61 to R64) and the entries of the event log (10_state.md R50). -/

namespace Sys2Proof

/-- The six flags of an error byte (10_state.md R31, 30_encoding.md R90). -/
structure ErrorFlags where
  msgInvalid      : Bool
  readRegInvalid  : Bool
  measmodeInvalid : Bool
  maxResistance   : Bool
  heaterFault     : Bool
  heaterSupply    : Bool
  deriving DecidableEq, Repr, Inhabited

/-- The four fields of a status byte (10_state.md R31, 30_encoding.md R91). -/
structure Status where
  error     : Bool
  dataReady : Bool
  appValid  : Bool
  fwMode    : Bool
  deriving DecidableEq, Repr, Inhabited

/-- A drive mode: a 3-bit mode number and two flags (10_state.md R31, 30_encoding.md R92). -/
structure DriveMode where
  driveMode : BitVec 3
  interrupt : Bool
  thresh    : Bool
  deriving DecidableEq, Repr, Inhabited

/-- A raw measurement (10_state.md R31, 30_encoding.md R94). -/
structure RawMeasurement where
  current : BitVec 6
  voltage : BitVec 10
  deriving DecidableEq, Repr, Inhabited

/-- A gas reading; a field is present only if the block was long enough (10_state.md R31, 30_encoding.md R96). -/
structure GasReading where
  eco2   : Option U16
  tvoc   : Option U16
  status : Option Status
  error  : Option ErrorFlags
  raw    : Option RawMeasurement
  deriving DecidableEq, Repr, Inhabited

/-- A sequence of exactly 32 bytes (10_state.md R31); `FRAME_LEN` = `FS_N` = 32 (00_scope.md R9). -/
abbrev Frame := Vector Byte 32

/-- A sequence of exactly 13 words (10_state.md R31); `FRAME_NVALS` = 13 (00_scope.md R9). -/
abbrev Values := Vector U16 13

/-- The three units of the block (00_scope.md R4). -/
inductive CmdUnit where
  | cdc | fsu | gsc
  deriving DecidableEq, Repr, Inhabited

/-- The transport primitives (00_scope.md R14), as the TRANSPORT_ERROR payload names them (60_exceptions.md R244). -/
inductive TxKind where
  | readByte | writeByte | readBlock | writeBlock | readWord | writeWord | readOneByte
  deriving DecidableEq, Repr, Inhabited

/-- One request on the I2C master port: kind, register, outgoing data or length (20_memory.md R61). -/
inductive I2CRequest where
  | readByte   (reg : Byte)
  | writeByte  (reg : Byte) (b : Byte)
  | readBlock  (reg : Byte) (n : Nat)
  | writeBlock (reg : Byte) (bs : List Byte)
  | readWord   (reg : Byte)
  | writeWord  (reg : Byte) (w : U16)
  deriving DecidableEq, Repr, Inhabited

/-- What I2CDEV answers to a request: data of the stated width, an acknowledgement of a write, or `fail`
(20_memory.md R61, R62). The one block the block reads has 8 bytes (R71). -/
inductive I2CAnswer where
  | byte  (b : Byte)
  | block (bs : Vector Byte 8)
  | word  (w : U16)
  | ack
  | fail
  deriving DecidableEq, Repr, Inhabited

/-- What UARTSRC answers to a byte request: one byte, or `fail` (20_memory.md R64). -/
inductive UartAnswer where
  | byte (b : Byte)
  | fail
  deriving DecidableEq, Repr, Inhabited

/-- The result codes (60_exceptions.md R240). Their numbers are `ResCode.toByte` in Machine/Flags.lean. -/
inductive ResCode where
  | ok | none | deviceFault | transportError | noValidApplication | appStartTimeout
  | framingFault | badLength | cancelled | illegalOp
  deriving DecidableEq, Repr, Inhabited

/-- Payload of GS_SWITCH_MODE (10_state.md R32). -/
structure SwitchInfo where
  cooldownApplied : Bool
  targetWritten   : Bool
  deriving DecidableEq, Repr, Inhabited

/-- Payload of GS_CHECK_HW_ID (10_state.md R32); `isMatch` is the spec's `match`. -/
structure HwIdInfo where
  value   : Byte
  isMatch : Bool
  deriving DecidableEq, Repr, Inhabited

/-- Payload of GS_LOAD_BASELINE (10_state.md R32). -/
structure LoadInfo where
  applied : Bool
  value   : Option U16
  deriving DecidableEq, Repr, Inhabited

/-- `res_payload`: a typed record whose type depends on the operation and the code (10_state.md R28); the records
are those of R31, R32 and of 60_exceptions.md R240. -/
inductive Payload where
  /-- NONE carries no payload. -/
  | none
  /-- The empty record of `OK({})`: FS_RESET, GS_SW_RESET. -/
  | empty
  | errorFlags (f : ErrorFlags)
  | status (s : Status)
  | driveMode (m : DriveMode)
  /-- `{byte}`: CDC_ENCODE_MODE. -/
  | encoded (b : Byte)
  | raw (r : RawMeasurement)
  | reading (r : GasReading)
  | values (v : Values)
  /-- `{valid}`: CDC_CHECK_FRAME. -/
  | valid (v : Bool)
  /-- `{frame}`: FS_PUSH. -/
  | frame (f : Frame)
  /-- `{stalled}`: FS_IS_STALLED. -/
  | stalled (b : Bool)
  /-- StartInfo `{tries}`: GS_START_APP. -/
  | startInfo (tries : BitVec 24)
  | switchInfo (i : SwitchInfo)
  | hwIdInfo (i : HwIdInfo)
  | loadInfo (i : LoadInfo)
  /-- SaveInfo `{value}`: GS_SAVE_BASELINE. -/
  | saveInfo (value : U16)
  /-- `{flags}` of DEVICE_FAULT. -/
  | deviceFault (flags : ErrorFlags)
  /-- `{kind, reg}` of TRANSPORT_ERROR; no register for `read_one_byte` (60_exceptions.md R244). -/
  | transportError (kind : TxKind) (reg : Option Byte)
  /-- `{status}` of NO_VALID_APPLICATION. -/
  | noValidApplication (status : Byte)
  /-- `{tries}` of APP_START_TIMEOUT. -/
  | appStartTimeout (tries : BitVec 24)
  /-- `{bytes}` of FRAMING_FAULT. -/
  | framingFault (bytes : BitVec 32)
  /-- `{len}` of BAD_LENGTH. -/
  | badLength (len : BitVec 6)
  /-- `{elapsed_ticks}` of CANCELLED. -/
  | cancelled (elapsedTicks : BitVec 10)
  /-- `{word}` of ILLEGAL_OP. -/
  | illegalOp (word : CmdWord)
  deriving DecidableEq, Repr, Inhabited

/-- `res_code` and `res_payload` of a result register (10_state.md R28). -/
structure ResBody where
  code    : BitVec 8
  payload : Payload
  deriving DecidableEq, Repr, Inhabited

/-- One result register (10_state.md R28). -/
structure Res where
  valid : Bool
  body  : ResBody
  deriving DecidableEq, Repr, Inhabited

/-- The entries of the event log (10_state.md R50). A TX entry's kind, register and outgoing data are its request. -/
inductive LogEvent where
  | tx (unit : CmdUnit) (req : I2CRequest) (result : I2CAnswer)
  | rx (result : UartAnswer)
  | deviceFault (flags : ErrorFlags)
  | tick (stop : Bool)
  | done (unit : CmdUnit) (code : ResCode)
  deriving DecidableEq, Repr, Inhabited

/-- What the agents outside the block may do to it in one step (00_scope.md R5; 70_reset_and_hazards.md R280 for
`rst`). -/
inductive Input where
  /-- HOST writes a word to `CMD` (10_state.md R26). -/
  | writeCmd (w : CmdWord)
  /-- HOST writes byte `i` of `dbuf` (10_state.md R27). -/
  | writeDbuf (i : BitVec 5) (b : Byte)
  /-- HOST drives the `stop` input (42_gas_controller.md R185). -/
  | driveStop (v : Bool)
  /-- I2CDEV answers the outstanding transaction (20_memory.md R61). -/
  | i2c (a : I2CAnswer)
  /-- UARTSRC answers the outstanding byte request (20_memory.md R64). -/
  | uart (a : UartAnswer)
  /-- TIMEBASE delivers a tick (42_gas_controller.md R184). -/
  | tick
  /-- The platform asserts `rst` (70_reset_and_hazards.md R280). -/
  | rst
  deriving DecidableEq, Repr, Inhabited

/-- The values a reset leaves unspecified (the rows of 10_state.md R30 that say so). -/
structure Unspecified where
  dbuf     : Vector Byte 32
  win      : Vector Byte 32
  cdcBody  : ResBody
  fsuBody  : ResBody
  gscBody  : ResBody
  prMax    : BitVec 24
  tries    : BitVec 24
  maxTries : BitVec 24
  curMode  : DriveMode
  tgtMode  : DriveMode
  deriving DecidableEq, Repr, Inhabited

end Sys2Proof
end

