-- ==== Sys2Proof/Config.lean ====
section
/-! DEFINITION. The implementation parameters of 00_scope.md R9, the CCS811 register numbers of 30_encoding.md R100,
the OPEN parameters (constants without a body) and the free values (opaque functions without a body). `FS_N` =
`FRAME_LEN` = 32 and `FRAME_NVALS` = 13 are in the types of Machine/Records.lean; the operand and counter widths are in
the types of Syntax.lean and Machine/State.lean; `CAL_CAP` is a strap in State, because it is configurable
(assumption 9). -/

namespace Sys2Proof.Config

/-- Default of `CAL_CAP` (00_scope.md R9). -/
def calCapDefault : Nat := 30

/-- `COOLDOWN_S` (00_scope.md R9). -/
def cooldownS : Nat := 600

/-- `TICK_S` (00_scope.md R9). -/
def tickS : Nat := 1

/-- `COOLDOWN_TICKS` = `COOLDOWN_S / TICK_S` (00_scope.md R9). -/
def cooldownTicks : Nat := cooldownS / tickS

/-- `FRAME_HDR` (00_scope.md R9, 30_encoding.md R97). -/
def frameHdr : List Byte := [0x42#8, 0x4D#8, 0x00#8, 0x1C#8]

/-- `IDLE_MODE_BYTE` (00_scope.md R9, 42_gas_controller.md R183). -/
def idleModeByte : Byte := 0x00#8

/-- `HW_ID_EXPECT` (00_scope.md R9). -/
def hwIdExpect : Byte := 0x81#8

/-- `RESET_SEQ` (00_scope.md R9). -/
def resetSeq : List Byte := [0x11#8, 0xE5#8, 0x72#8, 0x8A#8]

/-- The register numbers of the CCS811 (30_encoding.md R100). -/
def regStatus : Byte := 0x00#8
@[inherit_doc regStatus] def regMeasMode : Byte := 0x01#8
@[inherit_doc regStatus] def regResult : Byte := 0x02#8
@[inherit_doc regStatus] def regBaseline : Byte := 0x11#8
@[inherit_doc regStatus] def regHwId : Byte := 0x20#8
@[inherit_doc regStatus] def regError : Byte := 0xE0#8
@[inherit_doc regStatus] def regAppStart : Byte := 0xF4#8
@[inherit_doc regStatus] def regSwReset : Byte := 0xFF#8

/-- The two orders in which a transport may put the bytes of a word on the wire. -/
inductive ByteOrder where
  | msbFirst | lsbFirst
  deriving DecidableEq, Repr, Inhabited

/-- `WORD_ORDER`, OPEN (00_scope.md R9, 20_memory.md R67; assumption 11). No rule depends on it. -/
opaque wordOrder : ByteOrder

/-- `DEV_ADDR`, OPEN, a parameter of the transport (00_scope.md R9; assumption 11). No rule uses it. -/
opaque devAddr : Nat

/-- Free value: what a result register holds while its `res_valid` is 0 after an acceptance
(93_implementation_defined.md I3; assumption 8), drawn with State.freeCtr. -/
opaque freeBody : Nat → ResBody

/-- Free value: what the registers of 10_state.md R30 without a reset value hold after `rst`
(93_implementation_defined.md I1 to I4; assumption 7), drawn with State.freeCtr. -/
opaque freeAtReset : Nat → Unspecified

end Sys2Proof.Config
end

