-- ==== Sys2Proof/Machine/State.lean ====
section
/-! DEFINITION. The state of the block (10_state.md R20, R30), the ways a step can stop, and the state after power-on
reset (10_state.md R30; 70_reset_and_hazards.md R280, R283). -/

namespace Sys2Proof.Machine

open Sys2Proof

/-- `ctl_state`, one bit (10_state.md R40). -/
inductive CtlState where
  | appNotStarted | appRunning
  deriving DecidableEq, Repr, Inhabited

/-- `gsc_phase`: what the GSC waits for (10_state.md R23). -/
inductive GscPhase where
  | idle
  | saStatus | saErr | saStart
  | smRead | smIdleWr | smCool | smTgtWr
  | poStatus | poErr | poResult
  | blWr | blRd | rsWr | idRd
  deriving DecidableEq, Repr, Inhabited

/-- `fsu_phase`: what the FSU waits for (10_state.md R24). -/
inductive FsuPhase where
  | idle | prByte
  deriving DecidableEq, Repr, Inhabited

/-- Why the machine stops with a fault. The block itself has no traps (60_exceptions.md R243). -/
inductive Fault where
  /-- Raised by `gscAnswer` when I2CDEV answers with something of another shape than the transaction asks for, which
  the transport contract excludes (20_memory.md R61, R62; assumption 4). Safe: nothing is claimed of such a run. -/
  | answerShape
  deriving DecidableEq, Repr

/-- Why a step has no meaning. -/
inductive Refusal where
  /-- Raised by `exec` for an instruction without a meaning yet. Safe. -/
  | notModelled (mnemonic : String)
  /-- Raised by every FSU and GSC command when its unit is busy: "The model gives the write no meaning: it is refused"
  (60_exceptions.md R249). Safe. -/
  | unitBusy (unit : CmdUnit)
  /-- Raised by `step` when `CAL_CAP` is 0, a refused configuration (43_baseline.md R216). Safe. -/
  | calCapZero
  deriving DecidableEq, Repr

/-- The state of the block. -/
structure State where
  /-- `CMD`: the command written and not yet run; nothing between commands (10_state.md R26; assumption 5). -/
  cmd : Option CmdWord
  /-- `dbuf[0..31]` (10_state.md R27). -/
  dbuf : Vector Byte 32
  /-- `RES_CDC` (10_state.md R28). -/
  resCdc : Res
  /-- `RES_FSU` (10_state.md R28). -/
  resFsu : Res
  /-- `RES_GSC` (10_state.md R28). -/
  resGsc : Res
  /-- `gsc_busy` (10_state.md R25). -/
  gscBusy : Bool
  /-- `fsu_busy` (10_state.md R25). -/
  fsuBusy : Bool
  /-- The `stop` input (42_gas_controller.md R185). -/
  stop : Bool
  /-- `win[0..31]` (10_state.md R34). -/
  win : Vector Byte 32
  /-- `wr_ptr` (10_state.md R34). -/
  wrPtr : BitVec 5
  /-- `fill`, 0..32 (10_state.md R34). -/
  fill : BitVec 6
  /-- `since_cnt` (10_state.md R37). -/
  sinceCnt : BitVec 32
  /-- `fsu_phase` (10_state.md R24). -/
  fsuPhase : FsuPhase
  /-- `pr_max` (44_particulate_reader.md R225). -/
  prMax : BitVec 24
  /-- `ctl_state` (10_state.md R40). -/
  ctlState : CtlState
  /-- `gsc_phase` (10_state.md R23). -/
  gscPhase : GscPhase
  /-- `tries` (10_state.md R41). -/
  tries : BitVec 24
  /-- `max_tries` (10_state.md R41). -/
  maxTries : BitVec 24
  /-- `cur_mode` (10_state.md R42). -/
  curMode : DriveMode
  /-- `tgt_mode` (10_state.md R42). -/
  tgtMode : DriveMode
  /-- `cool_cnt` (10_state.md R42). -/
  coolCnt : BitVec 10
  /-- `cool_applied` (10_state.md R42). -/
  coolApplied : Bool
  /-- `hist`, newest last (10_state.md R43). -/
  hist : List U16
  /-- The event log, oldest first (10_state.md R50). -/
  log : List LogEvent
  /-- `CAL_CAP`, a configuration strap that no step writes (43_baseline.md R216; assumption 9). -/
  calCap : Nat
  /-- The model's own: what the agents outside do next, soonest first (assumption 1). -/
  inputs : List Input
  /-- The model's own: the next index into the free values (assumptions 7 and 8). -/
  freeCtr : Nat
  deriving DecidableEq, Repr

/-- The values State.reset takes where 10_state.md R30 gives none (DESIGN CHOICE, assumption 6). -/
def Unspecified.zero : Unspecified where
  dbuf := Vector.replicate 32 0#8
  win := Vector.replicate 32 0#8
  cdcBody := ⟨0#8, .none⟩
  fsuBody := ⟨0#8, .none⟩
  gscBody := ⟨0#8, .none⟩
  prMax := 0#24
  tries := 0#24
  maxTries := 0#24
  curMode := ⟨0#3, false, false⟩
  tgtMode := ⟨0#3, false, false⟩

/-- The state right after power-on, for a configuration `CAL_CAP`, a launch input `cal_hist_init` and the values the
spec leaves unspecified (10_state.md R30; 70_reset_and_hazards.md R280, R283). `cool_applied` is the 0 of R30's table,
where 93_implementation_defined.md I4 says any value at reset (DESIGN CHOICE, assumption 21). -/
def State.powerOn (calCap : Nat) (calHistInit : List U16) (stop : Bool) (u : Unspecified) : State where
  cmd := none
  dbuf := u.dbuf
  resCdc := ⟨false, u.cdcBody⟩
  resFsu := ⟨false, u.fsuBody⟩
  resGsc := ⟨false, u.gscBody⟩
  gscBusy := false
  fsuBusy := false
  stop := stop
  win := u.win
  wrPtr := 0#5
  fill := 0#6
  sinceCnt := 0#32
  fsuPhase := .idle
  prMax := u.prMax
  ctlState := .appNotStarted
  gscPhase := .idle
  tries := u.tries
  maxTries := u.maxTries
  curMode := u.curMode
  tgtMode := u.tgtMode
  coolCnt := 0#10
  coolApplied := false
  hist := calHistInit
  log := []
  calCap := calCap
  inputs := []
  freeCtr := 0

/-- The state right after power-on reset, with the default `CAL_CAP`, an empty `cal_hist_init`, `stop` low and 0 in
every register the spec gives no value for (assumptions 6, 9, 10 and 12). -/
def State.reset : State := State.powerOn Config.calCapDefault [] false Unspecified.zero

end Sys2Proof.Machine
end

