-- ==== Sys2Proof/Machine/Operands.lean ====
section
/-! DEFINITION. Operand assembly (30_encoding.md R83) and the bit and byte helpers the rules are written with
(00_scope.md R12). -/

namespace Sys2Proof.Machine

open Sys2Proof

/-- `{b0, b1}`: the word with `b0` in its upper byte (00_scope.md R12). -/
def pair (b0 b1 : Byte) : U16 := b0 ++ b1

/-- `sat_N(v + 1)`: one more, kept at `2^N - 1` once there (00_scope.md R12, 40_codec.md R130). -/
def satInc {n : Nat} (v : BitVec n) : BitVec n := BitVec.ofNat n (min (v.toNat + 1) (2 ^ n - 1))

/-- Decode of a MEAS_MODE byte: bits 6:4, 3 and 2; the others are ignored (30_encoding.md R92, 40_codec.md R122). -/
def decodeMode (b : Byte) : DriveMode where
  driveMode := b.extractLsb' 4 3
  interrupt := b.getLsbD 3
  thresh := b.getLsbD 2

/-- `(zext_8(dm) << 4) | (interrupt << 3) | (thresh << 2)` (30_encoding.md R93, 40_codec.md R123). -/
def encodeMode (m : DriveMode) : Byte :=
  (m.driveMode.setWidth 8 <<< 4) ||| ((BitVec.ofBool m.interrupt).setWidth 8 <<< 3)
    ||| ((BitVec.ofBool m.thresh).setWidth 8 <<< 2)

/-- The operand of format FL: `dbuf[0] ++ ... ++ dbuf[len-1]` (30_encoding.md R83). -/
def operandFL (len : BitVec 6) (s : State) : List Byte := s.dbuf.toList.take len.toNat

/-- The operand of format FN, zero-extended for comparison with `since_cnt` (30_encoding.md R83). -/
def operandFN (n : BitVec 24) : BitVec 32 := n.setWidth 32

/-- The operand of format FM: a record of its three fields (30_encoding.md R83). -/
def operandFM (dm : BitVec 3) (it th : Bool) : DriveMode := ⟨dm, it, th⟩

/-- The operand of format FT: `decode_mode(t)` (30_encoding.md R83). -/
def operandFT (t : Byte) : DriveMode := decodeMode t

end Sys2Proof.Machine
end

