-- ==== Sys2Proof/Machine/Flags.lean ====
section
/-! DEFINITION. The flags of the block (10_state.md R25), the block status word (R29), the numbers of the result codes
(60_exceptions.md R240) and what the HOST reads (10_state.md R28, R29). -/

namespace Sys2Proof.Machine

open Sys2Proof

/-- The code numbers (60_exceptions.md R240). -/
def resCodeByte : ResCode → BitVec 8
  | .ok => 0x00#8
  | .none => 0x01#8
  | .deviceFault => 0x02#8
  | .transportError => 0x03#8
  | .noValidApplication => 0x04#8
  | .appStartTimeout => 0x05#8
  | .framingFault => 0x06#8
  | .badLength => 0x07#8
  | .cancelled => 0x08#8
  | .illegalOp => 0x09#8

/-- BSTAT bit 2: 0 = APP_NOT_STARTED, 1 = APP_RUNNING (10_state.md R29, R40). -/
def ctlStateBit : CtlState → Bool
  | .appNotStarted => false
  | .appRunning => true

/-- BSTAT bit 6, `cooling`: 1 when the GSC is in `G_SM_COOL` (10_state.md R29). -/
def cooling (s : State) : Bool := s.gscPhase == .smCool

/-- `BSTAT`, from bit 7, which reads 0, down to bit 0 (10_state.md R29). -/
def bstat (s : State) : BitVec 8 :=
  0#1 ++ BitVec.ofBool (cooling s) ++ BitVec.ofBool s.resCdc.valid ++ BitVec.ofBool s.resFsu.valid
    ++ BitVec.ofBool s.resGsc.valid ++ BitVec.ofBool (ctlStateBit s.ctlState) ++ BitVec.ofBool s.fsuBusy
    ++ BitVec.ofBool s.gscBusy

/-- A unit's result register (10_state.md R28). -/
def State.res (s : State) : CmdUnit → Res
  | .cdc => s.resCdc
  | .fsu => s.resFsu
  | .gsc => s.resGsc

/-- A unit's busy flag; the CDC is never busy (10_state.md R25, R33). -/
def State.busy (s : State) : CmdUnit → Bool
  | .cdc => false
  | .fsu => s.fsuBusy
  | .gsc => s.gscBusy

/-- What the HOST reads from a result register: its code and payload, once `res_valid` = 1 (10_state.md R28). -/
def hostReadResult (u : CmdUnit) (s : State) : Option ResBody :=
  if (s.res u).valid then some (s.res u).body else none

/-- The stall test `is_stalled(m)`: `m ≠ 0` and `since_cnt ≥ zext_32(m)`; not stored, but computed
(10_state.md R25, 41_framesync.md R156). -/
def isStalled (m : BitVec 24) (s : State) : Bool := m != 0#24 && decide (operandFN m ≤ s.sinceCnt)

end Sys2Proof.Machine
end

