-- ==== Sys2Proof/Machine/Ops.lean ====
section
/-! DEFINITION. The operations every unit shares: logging (10_state.md R50), accepting a command (60_exceptions.md
R249), ending an operation (R242; a `raise` is the same operation with another code, R15), the transactions of the
transport (20_memory.md R61), the HOST's writes and block reset (70_reset_and_hazards.md R280 to R282). The block has
no exception entry and no return from one (60_exceptions.md R243, R250): `complete` is what stands in their place. -/

namespace Sys2Proof.Machine

open Sys2Proof

/-- `log(ev)` (00_scope.md R16). -/
def logEvent (ev : LogEvent) (s : State) : State := { s with log := s.log ++ [ev] }

/-- Write a unit's result register. -/
def State.setRes (s : State) (u : CmdUnit) (r : Res) : State :=
  match u with
  | .cdc => { s with resCdc := r }
  | .fsu => { s with resFsu := r }
  | .gsc => { s with resGsc := r }

/-- Write `ctl_state` (10_state.md R40). -/
def setCtl (c : CtlState) (s : State) : State := { s with ctlState := c }

/-- `<unit>_busy <- 0` and `<unit>_phase <- IDLE`, GSC and FSU only (60_exceptions.md R242). -/
def State.setIdle (s : State) (u : CmdUnit) : State :=
  match u with
  | .cdc => s
  | .fsu => { s with fsuBusy := false, fsuPhase := .idle }
  | .gsc => { s with gscBusy := false, gscPhase := .idle }

/-- End an operation of unit `u` with a code and a payload (60_exceptions.md R242). -/
def complete (u : CmdUnit) (code : ResCode) (payload : Payload) (s : State) : State :=
  logEvent (.done u code) ((s.setRes u ⟨true, ⟨resCodeByte code, payload⟩⟩).setIdle u)

/-- ILLEGAL_OP completes at once on `RES_CDC` with the word as its payload (30_encoding.md R86). -/
def illegalOp (w : CmdWord) (s : State) : Host.Outcome State Fault Refusal :=
  .next (complete .cdc .illegalOp (.illegalOp w) s)

/-- `res_valid <- 0` at acceptance; code and payload are then any value (60_exceptions.md R249;
93_implementation_defined.md I3; assumption 8). -/
def invalidated (k : Nat) : Res := ⟨false, Config.freeBody k⟩

/-- Acceptance by the idle FSU: `res_valid_fsu <- 0`, `fsu_busy <- 1` (60_exceptions.md R249). -/
def acceptFsu (s : State) : State :=
  { s with resFsu := invalidated s.freeCtr, fsuBusy := true, freeCtr := s.freeCtr + 1 }

/-- Acceptance by the idle GSC: `res_valid_gsc <- 0`, `gsc_busy <- 1` (60_exceptions.md R249). -/
def acceptGsc (s : State) : State :=
  { s with resGsc := invalidated s.freeCtr, gscBusy := true, freeCtr := s.freeCtr + 1 }

/-- An FSU command: refused if the unit is busy, else accepted and started (60_exceptions.md R249). -/
def startFsu (op : State → State) (s : State) : Host.Outcome State Fault Refusal :=
  if s.fsuBusy then .refused (.unitBusy .fsu) else .next (op (acceptFsu s))

/-- A GSC command: refused if the unit is busy, else accepted and started (60_exceptions.md R249). -/
def startGsc (op : State → State) (s : State) : Host.Outcome State Fault Refusal :=
  if s.gscBusy then .refused (.unitBusy .gsc) else .next (op (acceptGsc s))

/-- The primitive of a request (00_scope.md R14, 60_exceptions.md R244). -/
def requestKind : I2CRequest → TxKind
  | .readByte _ => .readByte
  | .writeByte _ _ => .writeByte
  | .readBlock _ _ => .readBlock
  | .writeBlock _ _ => .writeBlock
  | .readWord _ => .readWord
  | .writeWord _ _ => .writeWord

/-- The register of a request (20_memory.md R61). -/
def requestReg : I2CRequest → Byte
  | .readByte r => r
  | .writeByte r _ => r
  | .readBlock r _ => r
  | .writeBlock r _ => r
  | .readWord r => r
  | .writeWord r _ => r

/-- An answer the transport contract allows: `fail`, data of the request's width, or an acknowledgement of a write
(20_memory.md R61, R62). -/
def answerFits : I2CRequest → I2CAnswer → Bool
  | _, .fail => true
  | .readByte _, .byte _ => true
  | .readBlock _ n, .block _ => n == 8
  | .readWord _, .word _ => true
  | .writeByte _ _, .ack => true
  | .writeBlock _ _, .ack => true
  | .writeWord _ _, .ack => true
  | _, _ => false

/-- The transaction the GSC waits for, by its phase (10_state.md R23). No transaction is outstanding in `G_IDLE` and in
`G_SM_COOL`. In `G_BL_WR` the history is never empty (43_baseline.md R210; assumption 20). -/
def gscRequest (s : State) : Option I2CRequest :=
  match s.gscPhase with
  | .idle => none
  | .saStatus => some (.readByte Config.regStatus)
  | .saErr => some (.readByte Config.regError)
  | .saStart => some (.writeBlock Config.regAppStart [])
  | .smRead => some (.readByte Config.regMeasMode)
  | .smIdleWr => some (.writeByte Config.regMeasMode Config.idleModeByte)
  | .smCool => none
  | .smTgtWr => some (.writeByte Config.regMeasMode (encodeMode s.tgtMode))
  | .poStatus => some (.readByte Config.regStatus)
  | .poErr => some (.readByte Config.regError)
  | .poResult => some (.readBlock Config.regResult 8)
  | .blWr => some (.writeWord Config.regBaseline (s.hist.getLast?.getD 0#16))
  | .blRd => some (.readWord Config.regBaseline)
  | .rsWr => some (.writeBlock Config.regSwReset Config.resetSeq)
  | .idRd => some (.readByte Config.regHwId)

/-- The two bytes of a transport word in the order they are put on the wire (20_memory.md R67; assumption 11). -/
def wordToWire (o : Config.ByteOrder) (w : U16) : Byte × Byte :=
  match o with
  | .msbFirst => (w.extractLsb' 8 8, w.extractLsb' 0 8)
  | .lsbFirst => (w.extractLsb' 0 8, w.extractLsb' 8 8)

/-- The word of two wire bytes (20_memory.md R67; assumption 11). -/
def wordFromWire (o : Config.ByteOrder) (p : Byte × Byte) : U16 :=
  match o with
  | .msbFirst => pair p.1 p.2
  | .lsbFirst => pair p.2 p.1

/-- Write the list of what the outside does next (assumption 1). -/
def setInputs (es : List Input) (s : State) : State := { s with inputs := es }

/-- HOST writes `CMD`: the write presents a command word (10_state.md R26). -/
def hostWriteCmd (w : CmdWord) (s : State) : State := { s with cmd := some w }

/-- The block takes the command out of the latch, which "holds nothing between commands" (10_state.md R26). -/
def takeCmd (s : State) : State := { s with cmd := none }

/-- HOST writes `dbuf[i]` (10_state.md R27). -/
def hostWriteDbuf (i : BitVec 5) (b : Byte) (s : State) : State :=
  { s with dbuf := s.dbuf.set i.toNat b i.isLt }

/-- HOST drives `stop` (42_gas_controller.md R185). -/
def hostDriveStop (v : Bool) (s : State) : State := { s with stop := v }

/-- Block reset, `rst` (70_reset_and_hazards.md R280 to R282): every register of 10_state.md R30 takes its reset value,
a free value where the table gives none (assumption 7; for `cool_applied`, assumption 21); `hist`, the event log, the
strap and the `stop` input stay. -/
def blockReset (s : State) : State :=
  { State.powerOn s.calCap s.hist s.stop (Config.freeAtReset s.freeCtr) with
    log := s.log, inputs := s.inputs, freeCtr := s.freeCtr + 1 }

end Sys2Proof.Machine
end

