-- ==== Sys2Proof/Machine/Codec.lean ====
section
/-! DEFINITION. The BitfieldCodec: the pure functions of 40_codec.md R120 to R127 and the eight CDC commands that
expose them. Every CDC command completes in the step that issues it and writes only `RES_CDC` (R129). -/

namespace Sys2Proof.Machine

open Sys2Proof

/-- `decode_error(b)` (40_codec.md R120, 30_encoding.md R90). -/
def decodeError (b : Byte) : ErrorFlags where
  msgInvalid := b.getLsbD 0
  readRegInvalid := b.getLsbD 1
  measmodeInvalid := b.getLsbD 2
  maxResistance := b.getLsbD 3
  heaterFault := b.getLsbD 4
  heaterSupply := b.getLsbD 5

/-- `decode_status(b)` (40_codec.md R121, 30_encoding.md R91). -/
def decodeStatus (b : Byte) : Status where
  error := b.getLsbD 0
  dataReady := b.getLsbD 3
  appValid := b.getLsbD 4
  fwMode := b.getLsbD 7

/-- `decode_raw(w)` (40_codec.md R124, 30_encoding.md R94). -/
def decodeRaw (w : U16) : RawMeasurement where
  current := w.extractLsb' 10 6
  voltage := w.extractLsb' 0 10

/-- `{R[i], R[i+1]}`, present only when both bytes are inside `R` (40_codec.md R125). -/
def pairAt (R : List Byte) (i : Nat) : Option U16 :=
  match R[i]?, R[i + 1]? with
  | some b0, some b1 => some (pair b0 b1)
  | _, _ => none

/-- `decode_reading(R)`: a field is present only when its bytes are inside `R` (40_codec.md R125, 30_encoding.md R95,
R96). The commands call it at the lengths R125 allows only. -/
def decodeReading (R : List Byte) : GasReading where
  eco2 := pairAt R 0
  tvoc := pairAt R 2
  status := R[4]?.map decodeStatus
  error := R[5]?.map decodeError
  raw := (pairAt R 6).map decodeRaw

/-- The lengths CDC_DECODE_READING accepts (40_codec.md R125). -/
def readingLengths : List Nat := [0, 2, 4, 5, 6, 8]

/-- `decode_frame_values(F)`: thirteen big-endian words at offsets 4, 6, ..., 28; no check (40_codec.md R126). -/
def decodeFrameValues (F : Frame) : Values :=
  #v[pair F[4] F[5], pair F[6] F[7], pair F[8] F[9], pair F[10] F[11], pair F[12] F[13], pair F[14] F[15],
     pair F[16] F[17], pair F[18] F[19], pair F[20] F[21], pair F[22] F[23], pair F[24] F[25], pair F[26] F[27],
     pair F[28] F[29]]

/-- `(F[0] + ... + F[29]) mod 2^16` (40_codec.md R127, 30_encoding.md R98). -/
def frameChecksum (F : Frame) : U16 := BitVec.ofNat 16 ((F.toList.take 30).map BitVec.toNat).sum

/-- The frame validity predicate `frame_valid(F)`: header and checksum (40_codec.md R127). -/
def frameValid (F : Frame) : Bool :=
  F.toList.take 4 == Config.frameHdr && pair F[30] F[31] == frameChecksum F

/-- End a CDC command with OK (40_codec.md R129). -/
def cdcReturn (payload : Payload) (s : State) : Host.Outcome State Fault Refusal :=
  .next (complete .cdc .ok payload s)

/-- `raise BadLength({len})` (40_codec.md R125 to R127). -/
def cdcBadLength (len : BitVec 6) (s : State) : Host.Outcome State Fault Refusal :=
  .next (complete .cdc .badLength (.badLength len) s)

/-- CDC_DECODE_ERROR (40_codec.md R120). -/
def execCdcDecodeError (b : Byte) (s : State) : Host.Outcome State Fault Refusal :=
  cdcReturn (.errorFlags (decodeError b)) s

/-- CDC_DECODE_STATUS (40_codec.md R121). -/
def execCdcDecodeStatus (b : Byte) (s : State) : Host.Outcome State Fault Refusal :=
  cdcReturn (.status (decodeStatus b)) s

/-- CDC_DECODE_MODE (40_codec.md R122). -/
def execCdcDecodeMode (b : Byte) (s : State) : Host.Outcome State Fault Refusal :=
  cdcReturn (.driveMode (decodeMode b)) s

/-- CDC_ENCODE_MODE (40_codec.md R123). -/
def execCdcEncodeMode (dm : BitVec 3) (it th : Bool) (s : State) : Host.Outcome State Fault Refusal :=
  cdcReturn (.encoded (encodeMode (operandFM dm it th))) s

/-- CDC_DECODE_RAW (40_codec.md R124). -/
def execCdcDecodeRaw (w : U16) (s : State) : Host.Outcome State Fault Refusal :=
  cdcReturn (.raw (decodeRaw w)) s

/-- CDC_DECODE_READING: the length is checked before any `dbuf` read (40_codec.md R125). -/
def execCdcDecodeReading (len : BitVec 6) (s : State) : Host.Outcome State Fault Refusal :=
  if len.toNat ∈ readingLengths then cdcReturn (.reading (decodeReading (operandFL len s))) s
  else cdcBadLength len s

/-- CDC_DECODE_FRAME_VALUES: the length must be 32 (40_codec.md R126). -/
def execCdcDecodeFrameValues (len : BitVec 6) (s : State) : Host.Outcome State Fault Refusal :=
  if len = 32#6 then cdcReturn (.values (decodeFrameValues s.dbuf)) s else cdcBadLength len s

/-- CDC_CHECK_FRAME: the length must be 32 (40_codec.md R127). -/
def execCdcCheckFrame (len : BitVec 6) (s : State) : Host.Outcome State Fault Refusal :=
  if len = 32#6 then cdcReturn (.valid (frameValid s.dbuf)) s else cdcBadLength len s

end Sys2Proof.Machine
end

