-- ==== Sys2Proof/Machine/GasController.lean ====
section
/-! DEFINITION. The GasSensorController: the app-start handshake (42_gas_controller.md R170 to R176), the drive-mode
switch with its cooldown (R180 to R187), polling (R188, R189) and the two register-map commands (R196, R197). An
operation's start is its `exec`; each `...After...` function is its continuation after an answer. -/

namespace Sys2Proof.Machine

open Sys2Proof

/-- Go on to a phase and wait there. -/
def toPhase (p : GscPhase) (s : State) : State := { s with gscPhase := p }

/-- `max_tries <- n`, `tries <- 0` (42_gas_controller.md R170). -/
def initTries (n : BitVec 24) (s : State) : State := { s with maxTries := n, tries := 0#24 }

/-- `tries <- sat_24(tries + 1)` (42_gas_controller.md R170). -/
def countTry (s : State) : State := { s with tries := satInc s.tries }

/-- `tgt_mode <- m`, `cool_applied <- 0` (42_gas_controller.md R180). -/
def initSwitch (m : DriveMode) (s : State) : State := { s with tgtMode := m, coolApplied := false }

/-- `cur_mode <- m` (42_gas_controller.md R180). -/
def setCurMode (m : DriveMode) (s : State) : State := { s with curMode := m }

/-- `cool_applied <- 1` (42_gas_controller.md R180). -/
def markCooldown (s : State) : State := { s with coolApplied := true }

/-- Write `cool_cnt` (10_state.md R42). -/
def setCoolCnt (c : BitVec 10) (s : State) : State := { s with coolCnt := c }

/-- The head of GS_START_APP's loop: the timeout check, then one more try and the Status read
(42_gas_controller.md R170, R173). -/
def startAppLoop (s : State) : State :=
  if s.maxTries ≠ 0#24 ∧ s.tries = s.maxTries then
    complete .gsc .appStartTimeout (.appStartTimeout s.tries) (setCtl .appNotStarted s)
  else toPhase .saStatus (countTry s)

/-- GS_START_APP up to its first wait (42_gas_controller.md R170). -/
def execGsStartApp (n : BitVec 24) (s : State) : Host.Outcome State Fault Refusal :=
  startGsc (fun s => startAppLoop (initTries n s)) s

/-- After the Status read: `error`, then `app_valid`, then `fw_mode`, then the app-start command
(42_gas_controller.md R170, R171). -/
def startAppAfterStatus (sb : Byte) (s : State) : State :=
  if (decodeStatus sb).error then toPhase .saErr s
  else if (decodeStatus sb).appValid = false then
    complete .gsc .noValidApplication (.noValidApplication sb) (setCtl .appNotStarted s)
  else if (decodeStatus sb).fwMode then
    complete .gsc .ok (.startInfo s.tries) (setCtl .appRunning s)
  else toPhase .saStart s

/-- After the error register read: a logged device fault, then the loop (42_gas_controller.md R170, R172). -/
def startAppAfterError (eb : Byte) (s : State) : State :=
  startAppLoop (logEvent (.deviceFault (decodeError eb)) s)

/-- After the app-start command: the loop (42_gas_controller.md R170). -/
def startAppAfterStart (s : State) : State := startAppLoop s

/-- GS_SWITCH_MODE up to its first wait (42_gas_controller.md R180). -/
def execGsSwitchMode (t : Byte) (s : State) : Host.Outcome State Fault Refusal :=
  startGsc (fun s => toPhase .smRead (initSwitch (operandFT t) s)) s

/-- The cooldown trigger: `cur.drive_mode ≠ 0 ∧ cur.drive_mode ≤ tgt.drive_mode`, unsigned
(42_gas_controller.md R181). -/
def cooldownTrigger (cur tgt : DriveMode) : Bool := cur.driveMode != 0#3 && decide (cur.driveMode ≤ tgt.driveMode)

/-- After the read of MEAS_MODE: equality, then the cooldown test (42_gas_controller.md R180 to R182). -/
def switchModeAfterRead (mb : Byte) (s : State) : State :=
  if decodeMode mb = s.tgtMode then
    complete .gsc .ok (.switchInfo ⟨false, false⟩) (setCurMode (decodeMode mb) s)
  else if cooldownTrigger (decodeMode mb) s.tgtMode then
    toPhase .smIdleWr (markCooldown (setCurMode (decodeMode mb) s))
  else toPhase .smTgtWr (setCurMode (decodeMode mb) s)

/-- After the forced-idle write: the cooldown starts at 0 ticks (42_gas_controller.md R180, R184). -/
def switchModeAfterIdle (s : State) : State := toPhase .smCool (setCoolCnt 0#10 s)

/-- One tick of the cooldown: the `stop` sample decides between CANCELLED and counting; the 600th counted tick goes on
to the target write (42_gas_controller.md R180, R184, R185). -/
def cooldownTick (s : State) : State :=
  if s.stop then complete .gsc .cancelled (.cancelled s.coolCnt) (setCoolCnt 0#10 s)
  else if (s.coolCnt + 1#10).toNat < Config.cooldownTicks then setCoolCnt (s.coolCnt + 1#10) s
  else toPhase .smTgtWr (setCoolCnt 0#10 s)

/-- A tick of the TIMEBASE: enabled only in `G_SM_COOL`, where it is logged with the `stop` sample
(42_gas_controller.md R184, R185; 10_state.md R50). In another phase it is dropped (assumption 3). -/
def gscTick (s : State) : Host.Outcome State Fault Refusal :=
  if s.gscPhase = .smCool then .next (cooldownTick (logEvent (.tick s.stop) s)) else .next s

/-- After the target write (42_gas_controller.md R180). -/
def switchModeAfterTarget (s : State) : State :=
  complete .gsc .ok (.switchInfo ⟨s.coolApplied, true⟩) s

/-- GS_POLL_ONCE up to its first wait (42_gas_controller.md R188). -/
def execGsPollOnce (s : State) : Host.Outcome State Fault Refusal := startGsc (toPhase .poStatus) s

/-- After the Status read: `error` before `data_ready`; NONE when both are 0 (42_gas_controller.md R188). -/
def pollAfterStatus (sb : Byte) (s : State) : State :=
  if (decodeStatus sb).error then toPhase .poErr s
  else if (decodeStatus sb).dataReady then toPhase .poResult s
  else complete .gsc .none .none s

/-- After the error register read: the fault is logged and surfaced (42_gas_controller.md R188). -/
def pollAfterError (eb : Byte) (s : State) : State :=
  complete .gsc .deviceFault (.deviceFault (decodeError eb)) (logEvent (.deviceFault (decodeError eb)) s)

/-- After the result block read (42_gas_controller.md R188). -/
def pollAfterResult (bs : Vector Byte 8) (s : State) : State :=
  complete .gsc .ok (.reading (decodeReading bs.toList)) s

/-- GS_SW_RESET up to its wait (42_gas_controller.md R196). -/
def execGsSwReset (s : State) : Host.Outcome State Fault Refusal := startGsc (toPhase .rsWr) s

/-- After the reset sequence (42_gas_controller.md R196). -/
def swResetAfterWrite (s : State) : State := complete .gsc .ok .empty (setCtl .appNotStarted s)

/-- GS_CHECK_HW_ID up to its wait (42_gas_controller.md R197). -/
def execGsCheckHwId (s : State) : Host.Outcome State Fault Refusal := startGsc (toPhase .idRd) s

/-- After the ID read: a mismatch is reported and is no exception (42_gas_controller.md R197). -/
def checkHwIdAfterRead (v : Byte) (s : State) : State :=
  complete .gsc .ok (.hwIdInfo ⟨v, v == Config.hwIdExpect⟩) s

end Sys2Proof.Machine
end

