-- ==== Sys2Proof/Machine/Baseline.lean ====
section
/-! DEFINITION. The calibration baseline manager: GS_LOAD_BASELINE and GS_SAVE_BASELINE (43_baseline.md R210 to
R217). -/

namespace Sys2Proof.Machine

open Sys2Proof

/-- GS_LOAD_BASELINE up to its wait; an empty history is a no-op that completes at once (43_baseline.md R210). -/
def execGsLoadBaseline (s : State) : Host.Outcome State Fault Refusal :=
  startGsc (fun s =>
    if s.hist = [] then complete .gsc .ok (.loadInfo ⟨false, none⟩) s else toPhase .blWr s) s

/-- After the baseline write: the value written is `last(hist)` (43_baseline.md R210, R211). -/
def loadAfterWrite (s : State) : State := complete .gsc .ok (.loadInfo ⟨true, s.hist.getLast?⟩) s

/-- GS_SAVE_BASELINE up to its wait (43_baseline.md R214). -/
def execGsSaveBaseline (s : State) : Host.Outcome State Fault Refusal := startGsc (toPhase .blRd) s

/-- Append newest last; over the cap, drop the oldest (43_baseline.md R214). -/
def histAppend (cap : Nat) (hist : List U16) (w : U16) : List U16 :=
  if (hist ++ [w]).length > cap then (hist ++ [w]).drop 1 else hist ++ [w]

/-- `hist <- hist ++ [w]`, kept within the cap (43_baseline.md R214). -/
def appendHist (w : U16) (s : State) : State := { s with hist := histAppend s.calCap s.hist w }

/-- After the baseline read: the append, then OK with the value (43_baseline.md R214). -/
def saveAfterRead (w : U16) (s : State) : State :=
  complete .gsc .ok (.saveInfo w) (appendHist w s)

end Sys2Proof.Machine
end

