-- ==== Sys2Proof/Machine/Answers.lean ====
section
/-! DEFINITION. An answer on the I2C master port: which continuation it goes to, by the GSC's phase (10_state.md R23),
and the end of the operation when a transaction fails (60_exceptions.md R244). -/

namespace Sys2Proof.Machine

open Sys2Proof

/-- Go on with a byte; on an answer of another shape, which `gscAnswer` lets through to no phase, nothing changes. -/
def onByte (a : I2CAnswer) (s : State) (next : Byte → State → State) : State :=
  match a with
  | .byte b => next b s
  | _ => s

/-- Go on with a block of 8 bytes. -/
def onBlock (a : I2CAnswer) (s : State) (next : Vector Byte 8 → State → State) : State :=
  match a with
  | .block bs => next bs s
  | _ => s

/-- Go on with a word. -/
def onWord (a : I2CAnswer) (s : State) (next : U16 → State → State) : State :=
  match a with
  | .word w => next w s
  | _ => s

/-- Go on after an acknowledged write. -/
def onAck (a : I2CAnswer) (s : State) (next : State → State) : State :=
  match a with
  | .ack => next s
  | _ => s

/-- The continuation of the GSC's operation after a successful transaction, by its phase (10_state.md R23). -/
def gscContinue (a : I2CAnswer) (s : State) : State :=
  match s.gscPhase with
  | .idle => s
  | .saStatus => onByte a s startAppAfterStatus
  | .saErr => onByte a s startAppAfterError
  | .saStart => onAck a s startAppAfterStart
  | .smRead => onByte a s switchModeAfterRead
  | .smIdleWr => onAck a s switchModeAfterIdle
  | .smCool => s
  | .smTgtWr => onAck a s switchModeAfterTarget
  | .poStatus => onByte a s pollAfterStatus
  | .poErr => onByte a s pollAfterError
  | .poResult => onBlock a s pollAfterResult
  | .blWr => onAck a s loadAfterWrite
  | .blRd => onWord a s saveAfterRead
  | .rsWr => onAck a s swResetAfterWrite
  | .idRd => onByte a s checkHwIdAfterRead

/-- An answer of I2CDEV (20_memory.md R61): it is logged as TX; `fail` raises TRANSPORT_ERROR at once, with no retry
and no rollback (60_exceptions.md R244, R245); else the operation goes on. With no transaction outstanding it is
dropped (70_reset_and_hazards.md R281; assumption 3). -/
def gscAnswer (a : I2CAnswer) (s : State) : Host.Outcome State Fault Refusal :=
  match gscRequest s with
  | none => .next s
  | some req =>
    if answerFits req a then
      if a = .fail then
        .next (complete .gsc .transportError (.transportError (requestKind req) (some (requestReg req)))
          (logEvent (.tx .gsc req a) s))
      else .next (gscContinue a (logEvent (.tx .gsc req a) s))
    else .fault .answerShape

end Sys2Proof.Machine
end

