-- ==== Sys2Proof/Machine/FrameSync.lean ====
section
/-! DEFINITION. FrameSync: the pure step `push` and the FSU commands FS_PUSH, FS_IS_STALLED and FS_RESET
(41_framesync.md R150 to R158), which complete in the step that issues them. -/

namespace Sys2Proof.Machine

open Sys2Proof

/-- The logical window: `W[k] = win[(wr_ptr + k) mod 32]`, least recent byte first (10_state.md R35). -/
def logicalWindow (s : State) : Frame :=
  Vector.ofFn fun k : Fin 32 => s.win[(s.wrPtr.toNat + k.val) % 32]'(Nat.mod_lt _ (by decide))

/-- `fill <- min(fill + 1, 32)` (41_framesync.md R150, 40_codec.md R130). -/
def fillInc (f : BitVec 6) : BitVec 6 := BitVec.ofNat 6 (min (f.toNat + 1) 32)

/-- The first three writes of `push`: the byte over the oldest one, the pointer and `fill` (41_framesync.md R150). -/
def shiftIn (b : Byte) (s : State) : State :=
  { s with win := s.win.set s.wrPtr.toNat b s.wrPtr.isLt, wrPtr := s.wrPtr + 1#5, fill := fillInc s.fill }

/-- Write `since_cnt` (10_state.md R37). -/
def setSince (c : BitVec 32) (s : State) : State := { s with sinceCnt := c }

/-- The window is a full valid frame (41_framesync.md R151). -/
def windowValid (s : State) : Bool := s.fill == 32#6 && frameValid (logicalWindow s)

/-- `push(b)` (41_framesync.md R150): the state after, and the frame if the window is valid. -/
def pushByte (b : Byte) (s : State) : State × Option Frame :=
  if windowValid (shiftIn b s) then
    (setSince 0#32 (shiftIn b s), some (logicalWindow (shiftIn b s)))
  else (setSince (satInc s.sinceCnt) (shiftIn b s), none)

/-- FS_PUSH's end: OK with the frame, or NONE (41_framesync.md R150). -/
def pushEnd : State × Option Frame → State
  | (s, some F) => complete .fsu .ok (.frame F) s
  | (s, none) => complete .fsu .none .none s

/-- FS_PUSH (41_framesync.md R150). -/
def execFsPush (b : Byte) (s : State) : Host.Outcome State Fault Refusal :=
  startFsu (fun s => pushEnd (pushByte b s)) s

/-- FS_IS_STALLED (41_framesync.md R156). -/
def execFsIsStalled (n : BitVec 24) (s : State) : Host.Outcome State Fault Refusal :=
  startFsu (fun s => complete .fsu .ok (.stalled (isStalled n s)) s) s

/-- The writes of FS_RESET; `win` keeps what it holds (41_framesync.md R158). -/
def clearSync (s : State) : State := { s with fill := 0#6, wrPtr := 0#5, sinceCnt := 0#32 }

/-- FS_RESET (41_framesync.md R158). -/
def execFsReset (s : State) : Host.Outcome State Fault Refusal :=
  startFsu (fun s => complete .fsu .ok .empty (clearSync s)) s

end Sys2Proof.Machine
end

