-- ==== Sys2Proof/Machine/ParticulateReader.lean ====
section
/-! DEFINITION. PR_NEXT_READING (44_particulate_reader.md R225 to R231): its start, and its step for each answer of the
UART. -/

namespace Sys2Proof.Machine

open Sys2Proof

/-- `pr_max <- n` and the wait for a byte (44_particulate_reader.md R225). -/
def waitByte (n : BitVec 24) (s : State) : State := { s with prMax := n, fsuPhase := .prByte }

/-- PR_NEXT_READING up to its first wait: `pr_max <- n`, then the first byte request (44_particulate_reader.md R225).
Nothing of FrameSync is reset (R228). -/
def execPrNextReading (n : BitVec 24) (s : State) : Host.Outcome State Fault Refusal :=
  startFsu (waitByte n) s

/-- After a push: the frame test first, then the stall test, else the next byte (44_particulate_reader.md R225,
R226). -/
def prTests : State × Option Frame → State
  | (s, some F) => complete .fsu .ok (.values (decodeFrameValues F)) s
  | (s, none) =>
    if isStalled s.prMax s then complete .fsu .framingFault (.framingFault s.sinceCnt) s else s

/-- An answer of UARTSRC. It is logged as RX; a failure ends the operation and pushes nothing
(44_particulate_reader.md R230; 60_exceptions.md R244). With no request outstanding it is dropped (assumption 3). -/
def fsuAnswer (a : UartAnswer) (s : State) : Host.Outcome State Fault Refusal :=
  match s.fsuPhase with
  | .idle => .next s
  | .prByte =>
    match a with
    | .fail => .next (complete .fsu .transportError (.transportError .readOneByte none) (logEvent (.rx a) s))
    | .byte b => .next (prTests (pushByte b (logEvent (.rx a) s)))

end Sys2Proof.Machine
end

