-- ==== Sys2Proof/Machine/Dispatch.lean ====
section
/-! DEFINITION. The meaning of each command: its acceptance and its run to the first wait (60_exceptions.md R249). -/

namespace Sys2Proof.Machine

open Sys2Proof

def exec (i : Instr) (s : State) : Host.Outcome State Fault Refusal :=
  match i with
  | .cdcDecodeError b => Sys2Proof.Machine.execCdcDecodeError b s
  | .cdcDecodeStatus b => Sys2Proof.Machine.execCdcDecodeStatus b s
  | .cdcDecodeMode b => Sys2Proof.Machine.execCdcDecodeMode b s
  | .cdcEncodeMode dm it th => Sys2Proof.Machine.execCdcEncodeMode dm it th s
  | .cdcDecodeRaw w => Sys2Proof.Machine.execCdcDecodeRaw w s
  | .cdcDecodeReading len => Sys2Proof.Machine.execCdcDecodeReading len s
  | .cdcDecodeFrameValues len => Sys2Proof.Machine.execCdcDecodeFrameValues len s
  | .cdcCheckFrame len => Sys2Proof.Machine.execCdcCheckFrame len s
  | .fsPush b => Sys2Proof.Machine.execFsPush b s
  | .fsIsStalled n => Sys2Proof.Machine.execFsIsStalled n s
  | .fsReset => Sys2Proof.Machine.execFsReset s
  | .prNextReading n => Sys2Proof.Machine.execPrNextReading n s
  | .gsStartApp n => Sys2Proof.Machine.execGsStartApp n s
  | .gsSwitchMode t => Sys2Proof.Machine.execGsSwitchMode t s
  | .gsPollOnce => Sys2Proof.Machine.execGsPollOnce s
  | .gsLoadBaseline => Sys2Proof.Machine.execGsLoadBaseline s
  | .gsSaveBaseline => Sys2Proof.Machine.execGsSaveBaseline s
  | .gsSwReset => Sys2Proof.Machine.execGsSwReset s
  | .gsCheckHwId => Sys2Proof.Machine.execGsCheckHwId s

end Sys2Proof.Machine
end

