-- ==== Sys2Proof/Machine/Inputs.lean ====
section
/-! DEFINITION. What one thing that an agent outside does means to the block: a write of `CMD`, which is decoded and run
(60_exceptions.md R249, R251), a write of `dbuf`, `stop`, the answers of the two transports, a tick and `rst`. -/

namespace Sys2Proof.Machine

open Sys2Proof

/-- Run the word in the command latch: decode first, then accept (60_exceptions.md R249, R251). -/
def runCmd (s : State) : Host.Outcome State Fault Refusal :=
  match s.cmd with
  | none => .next s
  | some w =>
    match decode w with
    | .ok i => exec i (takeCmd s)
    | .error _ => illegalOp w (takeCmd s)

/-- What one input does. A write to `CMD` is accepted and run in the same step (60_exceptions.md R249). -/
def deliver (e : Input) (s : State) : Host.Outcome State Fault Refusal :=
  match e with
  | .writeCmd w => runCmd (hostWriteCmd w s)
  | .writeDbuf i b => .next (hostWriteDbuf i b s)
  | .driveStop v => .next (hostDriveStop v s)
  | .i2c a => gscAnswer a s
  | .uart a => fsuAnswer a s
  | .tick => gscTick s
  | .rst => .next (blockReset s)

end Sys2Proof.Machine
end

