-- ==== Sys2Proof/Machine/Step.lean ====
section
/-! DEFINITION. One step of the block: it consumes the next thing an agent outside does (assumption 1). There is no
fetch: the HOST writes commands to `CMD` (10_state.md R22, R26; 60_exceptions.md R249). -/

namespace Sys2Proof.Machine

open Sys2Proof

/-- One step: a command standing in the latch runs first; else the next input is consumed; with no input left the block
waits, unchanged (assumption 2). `CAL_CAP` = 0 is a refused configuration (43_baseline.md R216). -/
def step (s : State) : Host.Outcome State Fault Refusal :=
  if s.calCap = 0 then .refused .calCapZero
  else
    match s.cmd with
    | some _ => runCmd s
    | none =>
      match s.inputs with
      | [] => .next s
      | e :: rest => deliver e (setInputs rest s)

/-- The state in which the HOST has just written an instruction of the opcode table to `CMD` (assumption 15). -/
def State.withFetchWord (s : State) (nbits w : Nat) : State := hostWriteCmd (tableWord nbits w) s

end Sys2Proof.Machine
end

