-- ==== Sys2Proof/Safety.lean ====
section
/-! DEFINITION. The terms claims are stated in: running the block on a list of inputs, the invariant of its state, the
transactions the block may make, what its log says of a cooldown, and weak fairness. Nothing here is part of the
machine. -/

namespace Sys2Proof.Machine

open Sys2Proof

/-- The unit of a row of the opcode map (30_encoding.md R81, R84). -/
def opUnit : Op → CmdUnit
  | .cdcDecodeError => .cdc
  | .cdcDecodeStatus => .cdc
  | .cdcDecodeMode => .cdc
  | .cdcEncodeMode => .cdc
  | .cdcDecodeRaw => .cdc
  | .cdcDecodeReading => .cdc
  | .cdcDecodeFrameValues => .cdc
  | .cdcCheckFrame => .cdc
  | .fsPush => .fsu
  | .fsIsStalled => .fsu
  | .fsReset => .fsu
  | .prNextReading => .fsu
  | .gsStartApp => .gsc
  | .gsSwitchMode => .gsc
  | .gsPollOnce => .gsc
  | .gsLoadBaseline => .gsc
  | .gsSaveBaseline => .gsc
  | .gsSwReset => .gsc
  | .gsCheckHwId => .gsc

/-- The columns match and mask of opcode_table.json, row by row. -/
def tableRows : List (Op × CmdWord × CmdWord) :=
  [(.cdcDecodeError, 0x00000001#32, 0xFFFF00FF#32), (.cdcDecodeStatus, 0x00000002#32, 0xFFFF00FF#32),
   (.cdcDecodeMode, 0x00000003#32, 0xFFFF00FF#32), (.cdcEncodeMode, 0x00000004#32, 0xFFFFE0FF#32),
   (.cdcDecodeRaw, 0x00000005#32, 0xFF0000FF#32), (.cdcDecodeReading, 0x00000006#32, 0xFFFFC0FF#32),
   (.cdcDecodeFrameValues, 0x00000007#32, 0xFFFFC0FF#32), (.cdcCheckFrame, 0x00000008#32, 0xFFFFC0FF#32),
   (.fsPush, 0x00000010#32, 0xFFFF00FF#32), (.fsIsStalled, 0x00000011#32, 0x000000FF#32),
   (.fsReset, 0x00000012#32, 0xFFFFFFFF#32), (.prNextReading, 0x00000013#32, 0x000000FF#32),
   (.gsStartApp, 0x00000020#32, 0x000000FF#32), (.gsSwitchMode, 0x00000021#32, 0xFFFF83FF#32),
   (.gsPollOnce, 0x00000022#32, 0xFFFFFFFF#32), (.gsLoadBaseline, 0x00000023#32, 0xFFFFFFFF#32),
   (.gsSaveBaseline, 0x00000024#32, 0xFFFFFFFF#32), (.gsSwReset, 0x00000025#32, 0xFFFFFFFF#32),
   (.gsCheckHwId, 0x00000026#32, 0xFFFFFFFF#32)]

/-- The word is illegal: no row of the opcode table matches it (30_encoding.md R84, R86). -/
def illegalWord (c : CmdWord) : Prop := ∀ r ∈ tableRows, c &&& r.2.2 ≠ r.2.1

/-- Between commands, in a configuration that is not refused. -/
abbrev Ready (s : State) : Prop := s.cmd = none ∧ 1 ≤ s.calCap

/-- The state with `e` as the next input. -/
def State.withInput (s : State) (e : Input) : State := setInputs (e :: s.inputs) s

/-- Run the block on exactly these inputs, one step each. -/
def runInputs (s : State) (es : List Input) : Host.Outcome State Fault Refusal :=
  Host.Core.run Sys2Proof.core es.length (setInputs es s)

/-- HOST writes the word of a command. -/
def issue (i : Instr) : Input := .writeCmd (encode i)

/-- HOST pushes each byte of a list with FS_PUSH (30_encoding.md R89, FS_PUSH_FRAME). -/
def pushes (bs : List Byte) : List Input := bs.map fun b => issue (.fsPush b)

/-- UARTSRC delivers each byte of a list. -/
def uartBytes (bs : List Byte) : List Input := bs.map fun b => .uart (.byte b)

/-- The window and its counters after these bytes have gone in, oldest first. -/
def shiftInAll (bs : List Byte) (s : State) : State := bs.foldl (fun p b => shiftIn b p) s

/-- GS_START_APP is running. -/
def inStartApp (p : GscPhase) : Bool := p == .saStatus || p == .saErr || p == .saStart

/-- The invariant of the block's state. -/
structure Inv (s : State) : Prop where
  /-- 43_baseline.md R216. -/
  calCap_pos : 1 ≤ s.calCap
  /-- 43_baseline.md R215. -/
  hist_le : s.hist.length ≤ s.calCap
  /-- 10_state.md R34. -/
  fill_le : s.fill.toNat ≤ 32
  /-- Before the window is full, `fill` counts the bytes since a reset (10_state.md R34). -/
  wrPtr_eq_fill : s.fill.toNat < 32 → s.wrPtr.toNat = s.fill.toNat
  /-- Before the window is full, no frame was accepted (41_framesync.md R154). -/
  sinceCnt_eq_fill : s.fill.toNat < 32 → s.sinceCnt.toNat = s.fill.toNat
  /-- 10_state.md R22, R25. -/
  gscBusy_iff : s.gscBusy = true ↔ s.gscPhase ≠ .idle
  /-- 10_state.md R22, R25. -/
  fsuBusy_iff : s.fsuBusy = true ↔ s.fsuPhase ≠ .idle
  /-- 10_state.md R25: valid from completion to the next acceptance. -/
  gsc_result : s.gscBusy = true → s.resGsc.valid = false
  /-- 10_state.md R25. -/
  fsu_result : s.fsuBusy = true → s.resFsu.valid = false
  /-- 42_gas_controller.md R180: at most 599 ticks are counted while the cooldown lasts. -/
  cool_lt : s.gscPhase = .smCool → s.coolCnt.toNat < 600
  /-- 42_gas_controller.md R180: the counter is 0 outside the cooldown. -/
  cool_zero : s.gscPhase ≠ .smCool → s.coolCnt = 0#10
  /-- 42_gas_controller.md R180: no cooldown is marked before the device's mode is read. -/
  no_cooldown_yet : s.gscPhase = .smRead → s.coolApplied = false
  /-- 42_gas_controller.md R181: the cooldown branch is entered on its trigger only. -/
  cool_trigger : s.gscPhase = .smIdleWr ∨ s.gscPhase = .smCool →
    s.coolApplied = true ∧ s.curMode ≠ s.tgtMode ∧ s.curMode.driveMode ≠ 0#3 ∧ s.curMode.driveMode ≤ s.tgtMode.driveMode
  /-- 42_gas_controller.md R187: a target write applied a cooldown exactly on the trigger. -/
  target_write : s.gscPhase = .smTgtWr → s.curMode ≠ s.tgtMode ∧
    (s.coolApplied = true ↔ s.curMode.driveMode ≠ 0#3 ∧ s.curMode.driveMode ≤ s.tgtMode.driveMode)
  /-- 42_gas_controller.md R173: a bounded handshake counts at most `max_tries` polls. -/
  tries_le : inStartApp s.gscPhase = true →
    1 ≤ s.tries.toNat ∧ (s.maxTries ≠ 0#24 → s.tries.toNat ≤ s.maxTries.toNat)
  /-- 43_baseline.md R210: a baseline is written only from a non-empty history. -/
  load_hist : s.gscPhase = .blWr → s.hist ≠ []

/-- The transactions of the register map (20_memory.md R63, R71; 30_encoding.md R100). -/
def mapTransaction : I2CRequest → Prop
  | .readByte r => r = 0x00#8 ∨ r = 0x01#8 ∨ r = 0x20#8 ∨ r = 0xE0#8
  | .writeByte r _ => r = 0x01#8
  | .readBlock r n => r = 0x02#8 ∧ n = 8
  | .writeBlock r bs => (r = 0xF4#8 ∧ bs = []) ∨ (r = 0xFF#8 ∧ bs = [0x11#8, 0xE5#8, 0x72#8, 0x8A#8])
  | .readWord r => r = 0x11#8
  | .writeWord r _ => r = 0x11#8

/-- A log entry of the GSC: a transaction, a device fault, a tick or a GSC completion (10_state.md R50). -/
def isGscEvent : LogEvent → Bool
  | .tx u _ _ => u == .gsc
  | .rx _ => false
  | .deviceFault _ => true
  | .tick _ => true
  | .done u _ => u == .gsc

/-- The GSC's part of the log. -/
def gscLog (s : State) : List LogEvent := s.log.filter isGscEvent

/-- What the log says while a cooldown runs and when its target write is due: the forced-idle write was acknowledged
and, since then, the GSC logged nothing but uncancelled ticks, as many as were counted, 600 at the target write
(42_gas_controller.md R180, R184). -/
def CooldownLogged (s : State) : Prop :=
  (s.gscPhase = .smCool → ∃ before, gscLog s =
    before ++ .tx .gsc (.writeByte 0x01#8 0x00#8) .ack :: List.replicate s.coolCnt.toNat (.tick false)) ∧
  (s.gscPhase = .smTgtWr → s.coolApplied = true → ∃ before, gscLog s =
    before ++ .tx .gsc (.writeByte 0x01#8 0x00#8) .ack :: List.replicate 600 (.tick false))

/-- A Status read in the log. -/
def isStatusRead : LogEvent → Bool
  | .tx _ (.readByte r) _ => r == 0x00#8
  | _ => false

/-- An infinite run: `env n` is what the outside does in step `n`, and every step answers a next state. -/
def IsRun (env : Nat → Input) (run : Nat → State) : Prop :=
  ∀ n, step (setInputs [env n] (run n)) = .next (run (n + 1))

/-- Weak fairness of TIMEBASE, I2CDEV and UARTSRC: each eventually takes its step when enabled
(70_reset_and_hazards.md R296; assumption 18). -/
def WeaklyFair (env : Nat → Input) (run : Nat → State) : Prop :=
  ∀ n,
    (∃ m, n ≤ m ∧ (env m = .tick ∨ (run m).gscPhase ≠ .smCool)) ∧
    (∃ m, n ≤ m ∧ ((∃ a, env m = .i2c a) ∨ gscRequest (run m) = none)) ∧
    (∃ m, n ≤ m ∧ ((∃ a, env m = .uart a) ∨ (run m).fsuPhase ≠ .prByte))

end Sys2Proof.Machine
end

