-- ==== Sys2Proof/Certificates/Slice0/Obligations.lean ====
section
/-! DEFINITION. The statements for the provers. Each formalises a rule of spec/, named in its docstring. `Ready s` says
that no command stands in the latch and that `CAL_CAP` is at least 1; `s.withInput e` is `s` with `e` as the next input;
`runInputs s es` is the run of the block from `s` on exactly the inputs `es`. A result equation gives the whole next
state, so it is the instruction's frame too: every field it does not name is unchanged. Where a result register's body
is free while `res_valid` is 0 (assumption 8), and where the model's own counter of free values advances, the statement
says only that there is a value. -/

open Sys2Proof Sys2Proof.Machine

/-! ### Encoding -/

/-- 30_encoding.md R82, R84: every well-formed command has a word that decodes to it, so no bit of an encoding is
dropped, and a word that decodes to a command is that command's word, so it has at most one. -/
def Obligations.DecodeAndEncodeAgree : Prop :=
  (∀ i : Instr, i.wellFormed = true → decode (encode i) = .ok i) ∧
  ∀ (c : CmdWord) (i : Instr), decode c = .ok i → i.wellFormed = true ∧ encode i = c

/-- 30_encoding.md R84: a word selects the row whose (c & mask) = match, and at most one row matches any word. -/
def Obligations.WordSelectsItsOnlyRow : Prop :=
  ∀ (c : CmdWord) (o : Op) (m k : CmdWord), (o, m, k) ∈ tableRows → c &&& k = m →
    (∃ i, decode c = .ok i ∧ i.op = o) ∧
    ∀ (o' : Op) (m' k' : CmdWord), (o', m', k') ∈ tableRows → c &&& k' = m' → o' = o

/-- 30_encoding.md R81: `CMD[7:4]` selects the unit, and values 0x3 to 0xF select none. -/
def Obligations.UnitIsSelectedByCmdBits : Prop :=
  ∀ c : CmdWord,
    (∀ i, decode c = .ok i →
      (c.extractLsb' 4 4 = 0x0#4 ↔ opUnit i.op = .cdc) ∧
      (c.extractLsb' 4 4 = 0x1#4 ↔ opUnit i.op = .fsu) ∧
      (c.extractLsb' 4 4 = 0x2#4 ↔ opUnit i.op = .gsc)) ∧
    (0x3#4 ≤ c.extractLsb' 4 4 → ∀ i, decode c ≠ .ok i)

/-- 30_encoding.md R86: which words are illegal; an illegal word completes at once on `RES_CDC` with ILLEGAL_OP and its
own value, whether or not a unit is busy, and changes nothing else. That its completion is logged is read from R50. -/
def Obligations.IllegalWordCompletesOnCdc : Prop :=
  (∀ c : CmdWord, illegalWord c ↔ ∀ i, decode c ≠ .ok i) ∧
  (∀ c : CmdWord, ((c.extractLsb' 0 8).toNat = 0 ∨ (0x09 ≤ (c.extractLsb' 0 8).toNat ∧ (c.extractLsb' 0 8).toNat ≤ 0x0F) ∨
      (0x14 ≤ (c.extractLsb' 0 8).toNat ∧ (c.extractLsb' 0 8).toNat ≤ 0x1F) ∨ 0x27 ≤ (c.extractLsb' 0 8).toNat) →
    illegalWord c) ∧
  (∀ (c : CmdWord) (s : State), Ready s → illegalWord c →
    step (s.withInput (.writeCmd c)) = .next
      { s with resCdc := ⟨true, ⟨0x09#8, .illegalOp c⟩⟩, log := s.log ++ [.done .cdc .illegalOp] })

/-- 30_encoding.md R85, its thirteen example words. -/
def Obligations.ExampleWordsDecode : Prop :=
  decode 0x00002021#32 = .ok (.gsSwitchMode 0x20#8) ∧
  decode 0x00001021#32 = .ok (.gsSwitchMode 0x10#8) ∧
  decode 0x00000021#32 = .ok (.gsSwitchMode 0x00#8) ∧
  decode 0x00002821#32 = .ok (.gsSwitchMode 0x28#8) ∧
  decode 0x00004210#32 = .ok (.fsPush 0x42#8) ∧
  decode 0x00000320#32 = .ok (.gsStartApp 3#24) ∧
  decode 0x00AAAA05#32 = .ok (.cdcDecodeRaw 0xAAAA#16) ∧
  decode 0x00001A04#32 = .ok (.cdcEncodeMode 2#3 true true) ∧
  decode 0x00000806#32 = .ok (.cdcDecodeReading 8#6) ∧
  decode 0x00002007#32 = .ok (.cdcDecodeFrameValues 32#6) ∧
  decode 0x00002008#32 = .ok (.cdcCheckFrame 32#6) ∧
  decode 0x00002811#32 = .ok (.fsIsStalled 40#24) ∧
  decode 0x00004013#32 = .ok (.prNextReading 64#24)

/-- 60_exceptions.md R249: a word the HOST writes to `CMD` is decoded and run in that step; the model's latch and its
list of inputs are assumptions 1 and 5. -/
def Obligations.StepRunsDecodedCommand : Prop :=
  ∀ (s : State) (w : CmdWord) (i : Instr), 1 ≤ s.calCap → decode w = .ok i →
    step { s with cmd := some w } = exec i { s with cmd := none } ∧
    (s.cmd = none → step (s.withInput (.writeCmd w)) = exec i s)

/-! ### Command acceptance -/

/-- 60_exceptions.md R249 item 4, 70_reset_and_hazards.md R286: an FSU or GSC command to its busy unit is refused, and
no command is refused otherwise. -/
def Obligations.CommandRefusedExactlyWhenUnitBusy : Prop :=
  ∀ (i : Instr) (s : State),
    (opUnit i.op = .cdc → ∃ t, exec i s = .next t) ∧
    (opUnit i.op = .fsu → (s.fsuBusy = true → exec i s = .refused (.unitBusy .fsu)) ∧
      (s.fsuBusy = false → ∃ t, exec i s = .next t)) ∧
    (opUnit i.op = .gsc → (s.gscBusy = true → exec i s = .refused (.unitBusy .gsc)) ∧
      (s.gscBusy = false → ∃ t, exec i s = .next t))

/-- 43_baseline.md R216: a configuration with `CAL_CAP` = 0 is refused, and no step changes `CAL_CAP`. -/
def Obligations.CalCapIsFixedAndNotZero : Prop :=
  (∀ s : State, s.calCap = 0 → step s = .refused .calCapZero) ∧
  (∀ s t : State, step s = .next t → 1 ≤ t.calCap ∧ t.calCap = s.calCap)

/-- 10_state.md R29: every bit of BSTAT, and its value at power-on. -/
def Obligations.BstatBits : Prop :=
  (∀ s : State,
    (bstat s).getLsbD 0 = s.gscBusy ∧
    (bstat s).getLsbD 1 = s.fsuBusy ∧
    ((bstat s).getLsbD 2 = true ↔ s.ctlState = .appRunning) ∧
    (bstat s).getLsbD 3 = s.resGsc.valid ∧
    (bstat s).getLsbD 4 = s.resFsu.valid ∧
    (bstat s).getLsbD 5 = s.resCdc.valid ∧
    ((bstat s).getLsbD 6 = true ↔ s.gscPhase = .smCool) ∧
    (bstat s).getLsbD 7 = false) ∧
  ∀ (cap : Nat) (h : List U16) (stop : Bool) (u : Unspecified), bstat (State.powerOn cap h stop u) = 0x00#8

/-! ### Codec -/

/-- 40_codec.md R120. -/
def Obligations.DecodeErrorResult : Prop :=
  (∀ c : CmdWord, c &&& 0xFFFF00FF#32 = 0x01#32 → decode c = .ok (.cdcDecodeError (c.extractLsb' 8 8))) ∧
  ∀ (b : Byte) (s : State), exec (.cdcDecodeError b) s = .next
    { s with
      resCdc := ⟨true, ⟨0x00#8, .errorFlags ⟨b.getLsbD 0, b.getLsbD 1, b.getLsbD 2, b.getLsbD 3, b.getLsbD 4,
        b.getLsbD 5⟩⟩⟩
      log := s.log ++ [.done .cdc .ok] }

/-- 40_codec.md R121. -/
def Obligations.DecodeStatusResult : Prop :=
  (∀ c : CmdWord, c &&& 0xFFFF00FF#32 = 0x02#32 → decode c = .ok (.cdcDecodeStatus (c.extractLsb' 8 8))) ∧
  ∀ (b : Byte) (s : State), exec (.cdcDecodeStatus b) s = .next
    { s with
      resCdc := ⟨true, ⟨0x00#8, .status ⟨b.getLsbD 0, b.getLsbD 3, b.getLsbD 4, b.getLsbD 7⟩⟩⟩
      log := s.log ++ [.done .cdc .ok] }

/-- 40_codec.md R122. -/
def Obligations.DecodeModeResult : Prop :=
  (∀ c : CmdWord, c &&& 0xFFFF00FF#32 = 0x03#32 → decode c = .ok (.cdcDecodeMode (c.extractLsb' 8 8))) ∧
  ∀ (b : Byte) (s : State), exec (.cdcDecodeMode b) s = .next
    { s with
      resCdc := ⟨true, ⟨0x00#8, .driveMode ⟨b.extractLsb' 4 3, b.getLsbD 3, b.getLsbD 2⟩⟩⟩
      log := s.log ++ [.done .cdc .ok] }

/-- 40_codec.md R123: the byte, bit by bit, and the round trips. -/
def Obligations.EncodeModeResult : Prop :=
  (∀ c : CmdWord, c &&& 0xFFFFE0FF#32 = 0x04#32 →
    decode c = .ok (.cdcEncodeMode (c.extractLsb' 8 3) (c.getLsbD 11) (c.getLsbD 12))) ∧
  (∀ (dm : BitVec 3) (it th : Bool) (s : State), exec (.cdcEncodeMode dm it th) s = .next
    { s with
      resCdc := ⟨true, ⟨0x00#8, .encoded (0#1 ++ dm ++ BitVec.ofBool it ++ BitVec.ofBool th ++ 0#2)⟩⟩
      log := s.log ++ [.done .cdc .ok] }) ∧
  (∀ m : DriveMode, decodeMode (encodeMode m) = m) ∧
  (∀ b : Byte, decodeMode (encodeMode (decodeMode b)) = decodeMode b)

/-- 40_codec.md R124. -/
def Obligations.DecodeRawResult : Prop :=
  (∀ c : CmdWord, c &&& 0xFF0000FF#32 = 0x05#32 → decode c = .ok (.cdcDecodeRaw (c.extractLsb' 8 16))) ∧
  ∀ (w : U16) (s : State), exec (.cdcDecodeRaw w) s = .next
    { s with
      resCdc := ⟨true, ⟨0x00#8, .raw ⟨w.extractLsb' 10 6, w.extractLsb' 0 10⟩⟩⟩
      log := s.log ++ [.done .cdc .ok] }

/-- 40_codec.md R125: the six legal lengths give exactly the fields whose bytes are inside the operand, big-endian;
every other length gives BAD_LENGTH. -/
def Obligations.DecodeReadingResult : Prop :=
  (∀ c : CmdWord, c &&& 0xFFFFC0FF#32 = 0x06#32 → decode c = .ok (.cdcDecodeReading (c.extractLsb' 8 6))) ∧
  ∀ (len : BitVec 6) (s : State),
    (len.toNat ∈ [0, 2, 4, 5, 6, 8] → exec (.cdcDecodeReading len) s = .next
      { s with
        resCdc := ⟨true, ⟨0x00#8, .reading
          { eco2 := if 2 ≤ len.toNat then some (s.dbuf[0] ++ s.dbuf[1]) else none
            tvoc := if 4 ≤ len.toNat then some (s.dbuf[2] ++ s.dbuf[3]) else none
            status := if 5 ≤ len.toNat then some (decodeStatus s.dbuf[4]) else none
            error := if 6 ≤ len.toNat then some (decodeError s.dbuf[5]) else none
            raw := if 8 ≤ len.toNat then some (decodeRaw (s.dbuf[6] ++ s.dbuf[7])) else none }⟩⟩
        log := s.log ++ [.done .cdc .ok] }) ∧
    (len.toNat ∉ [0, 2, 4, 5, 6, 8] → exec (.cdcDecodeReading len) s = .next
      { s with resCdc := ⟨true, ⟨0x07#8, .badLength len⟩⟩, log := s.log ++ [.done .cdc .badLength] })

/-- 40_codec.md R126: thirteen big-endian words at offsets 4, 6, ..., 28, with no check of header or checksum. -/
def Obligations.DecodeFrameValuesResult : Prop :=
  (∀ c : CmdWord, c &&& 0xFFFFC0FF#32 = 0x07#32 → decode c = .ok (.cdcDecodeFrameValues (c.extractLsb' 8 6))) ∧
  ∀ (len : BitVec 6) (s : State),
    (len = 32#6 → exec (.cdcDecodeFrameValues len) s = .next
      { s with
        resCdc := ⟨true, ⟨0x00#8, .values (Vector.ofFn fun i : Fin 13 => s.dbuf[4 + 2 * i.val] ++ s.dbuf[5 + 2 * i.val])⟩⟩
        log := s.log ++ [.done .cdc .ok] }) ∧
    (len ≠ 32#6 → exec (.cdcDecodeFrameValues len) s = .next
      { s with resCdc := ⟨true, ⟨0x07#8, .badLength len⟩⟩, log := s.log ++ [.done .cdc .badLength] })

/-- 40_codec.md R127: header bytes and the sum of the first thirty bytes mod 2^16. -/
def Obligations.CheckFrameResult : Prop :=
  (∀ c : CmdWord, c &&& 0xFFFFC0FF#32 = 0x08#32 → decode c = .ok (.cdcCheckFrame (c.extractLsb' 8 6))) ∧
  ∀ (len : BitVec 6) (s : State),
    (len = 32#6 → exec (.cdcCheckFrame len) s = .next
      { s with
        resCdc := ⟨true, ⟨0x00#8, .valid (decide
          (s.dbuf[0] = 0x42#8 ∧ s.dbuf[1] = 0x4D#8 ∧ s.dbuf[2] = 0x00#8 ∧ s.dbuf[3] = 0x1C#8 ∧
            (s.dbuf[30] ++ s.dbuf[31]).toNat = (∑ k : Fin 30, (s.dbuf[k.val]).toNat) % 2 ^ 16))⟩⟩
        log := s.log ++ [.done .cdc .ok] }) ∧
    (len ≠ 32#6 → exec (.cdcCheckFrame len) s = .next
      { s with resCdc := ⟨true, ⟨0x07#8, .badLength len⟩⟩, log := s.log ++ [.done .cdc .badLength] })

/-- 40_codec.md R128, its seven laws in order. -/
def Obligations.CodecLaws : Prop :=
  (∀ b : Byte, decodeMode (encodeMode (decodeMode b)) = decodeMode b) ∧
  (∀ m : DriveMode, decodeMode (encodeMode m) = m) ∧
  (∀ b : Byte, ((decodeStatus b).error = b.getLsbD 0 ∧ (decodeStatus b).dataReady = b.getLsbD 3 ∧
      (decodeStatus b).appValid = b.getLsbD 4 ∧ (decodeStatus b).fwMode = b.getLsbD 7) ∧
    ∀ j : Fin 8,
      (j.val ≠ 0 → (decodeStatus (b ^^^ (1#8 <<< j.val))).error = (decodeStatus b).error) ∧
      (j.val ≠ 3 → (decodeStatus (b ^^^ (1#8 <<< j.val))).dataReady = (decodeStatus b).dataReady) ∧
      (j.val ≠ 4 → (decodeStatus (b ^^^ (1#8 <<< j.val))).appValid = (decodeStatus b).appValid) ∧
      (j.val ≠ 7 → (decodeStatus (b ^^^ (1#8 <<< j.val))).fwMode = (decodeStatus b).fwMode)) ∧
  (∀ b : Byte, decodeError b = ⟨b.getLsbD 0, b.getLsbD 1, b.getLsbD 2, b.getLsbD 3, b.getLsbD 4, b.getLsbD 5⟩) ∧
  (∀ w : U16, ((decodeRaw w).current.setWidth 16 <<< 10) ||| (decodeRaw w).voltage.setWidth 16 = w) ∧
  (∀ R : List Byte, R.length ∈ [0, 2, 4, 5, 6, 8] →
    ((decodeReading R).eco2.isSome ↔ 2 ≤ R.length) ∧ ((decodeReading R).tvoc.isSome ↔ 4 ≤ R.length) ∧
    ((decodeReading R).status.isSome ↔ 5 ≤ R.length) ∧ ((decodeReading R).error.isSome ↔ 6 ≤ R.length) ∧
    ((decodeReading R).raw.isSome ↔ 8 ≤ R.length)) ∧
  (∀ F : Frame, frameValid F = true → F[0] = 0x42#8 ∧ F[1] = 0x4D#8 ∧ F[2] = 0x00#8 ∧ F[3] = 0x1C#8)

/-- 40_codec.md R129: every CDC command completes in its step, busy units or not; it writes only `RES_CDC` (and its
completion is logged, 60_exceptions.md R242), with no code but OK and BAD_LENGTH; and its result depends on its word
alone and, for format FL, on `dbuf`. -/
def Obligations.CdcCommandsArePure : Prop :=
  ∀ (i : Instr) (s : State), opUnit i.op = .cdc →
    ∃ code payload, (code = .ok ∨ code = .badLength) ∧
      exec i s = .next { s with
        resCdc := ⟨true, ⟨resCodeByte code, payload⟩⟩, log := s.log ++ [.done .cdc code] } ∧
      ∀ s' : State, (i.op.format = .FL → s'.dbuf = s.dbuf) → exec i s' = .next { s' with
        resCdc := ⟨true, ⟨resCodeByte code, payload⟩⟩, log := s'.log ++ [.done .cdc code] }

/-! ### FrameSync -/

/-- 41_framesync.md R150, R151: the byte is written at the old pointer, pointer and fill move on, and the window after
the write decides between the frame and one more byte counted. -/
def Obligations.PushResult : Prop :=
  (∀ c : CmdWord, c &&& 0xFFFF00FF#32 = 0x10#32 → decode c = .ok (.fsPush (c.extractLsb' 8 8))) ∧
  ∀ (b : Byte) (s : State), s.fsuBusy = false →
    ∃ (W : Frame) (k : Nat),
      (∀ j : Fin 32, W[j.val] = (s.win.set s.wrPtr.toNat b s.wrPtr.isLt)[((s.wrPtr.toNat + 1) + j.val) % 32]'(Nat.mod_lt _ (by decide))) ∧
      (31 ≤ s.fill.toNat ∧ frameValid W = true → exec (.fsPush b) s = .next
        { s with
          win := s.win.set s.wrPtr.toNat b s.wrPtr.isLt
          wrPtr := BitVec.ofNat 5 ((s.wrPtr.toNat + 1) % 32)
          fill := BitVec.ofNat 6 (min (s.fill.toNat + 1) 32)
          sinceCnt := 0#32
          resFsu := ⟨true, ⟨0x00#8, .frame W⟩⟩
          fsuPhase := .idle
          log := s.log ++ [.done .fsu .ok]
          freeCtr := k }) ∧
      (¬(31 ≤ s.fill.toNat ∧ frameValid W = true) → exec (.fsPush b) s = .next
        { s with
          win := s.win.set s.wrPtr.toNat b s.wrPtr.isLt
          wrPtr := BitVec.ofNat 5 ((s.wrPtr.toNat + 1) % 32)
          fill := BitVec.ofNat 6 (min (s.fill.toNat + 1) 32)
          sinceCnt := BitVec.ofNat 32 (min (s.sinceCnt.toNat + 1) (2 ^ 32 - 1))
          resFsu := ⟨true, ⟨0x01#8, .none⟩⟩
          fsuPhase := .idle
          log := s.log ++ [.done .fsu .none]
          freeCtr := k })

/-- 41_framesync.md R153, 10_state.md R34, R35: a push moves the logical window forward by exactly one byte, so after at
least 32 pushes, from any state, it is the last 32 bytes pushed, least recent first. -/
def Obligations.WindowSlidesByOneByte : Prop :=
  (∀ (b : Byte) (s t : State), exec (.fsPush b) s = .next t →
    (∀ j : Fin 31, (logicalWindow t)[j.val] = (logicalWindow s)[j.val + 1]) ∧ (logicalWindow t)[31] = b) ∧
  ∀ (s : State) (bs : List Byte), Ready s → s.fsuBusy = false → 32 ≤ bs.length →
    ∃ t, runInputs s (pushes bs) = .next t ∧ t.fsuBusy = false ∧
      (logicalWindow t).toList = bs.drop (bs.length - 32)

/-- 41_framesync.md R154: with `fill` = 0, as it is after reset and after FS_RESET, none of the first 31 pushes accepts a
frame, and a stream equal to one valid frame gives exactly one frame, at its last byte. -/
def Obligations.FrameIsEmittedAtItsLastByteOnly : Prop :=
  ∀ s : State, Ready s → s.fsuBusy = false → s.fill = 0#6 →
    (∀ bs : List Byte, bs.length ≤ 31 → ∃ t, runInputs s (pushes bs) = .next t ∧
      t.log = s.log ++ List.replicate bs.length (.done .fsu .none) ∧ t.fill.toNat = bs.length) ∧
    (∀ F : Frame, frameValid F = true → ∃ t, runInputs s (pushes F.toList) = .next t ∧
      t.log = s.log ++ List.replicate 31 (.done .fsu .none) ++ [.done .fsu .ok] ∧
      t.resFsu = ⟨true, ⟨0x00#8, .frame F⟩⟩ ∧ t.sinceCnt = 0#32 ∧ t.fill = 32#6 ∧ t.wrPtr = s.wrPtr)

/-- 41_framesync.md R157: as long as no push is accepted, the count is the number of bytes pushed, saturating, so the
stall test at a threshold is true exactly from that many bytes on. -/
def Obligations.StallAfterUnacceptedPushes : Prop :=
  ∀ (s t : State) (bs : List Byte), Ready s → s.fsuBusy = false → s.sinceCnt = 0#32 →
    runInputs s (pushes bs) = .next t → t.log = s.log ++ List.replicate bs.length (.done .fsu .none) →
    t.sinceCnt.toNat = min bs.length (2 ^ 32 - 1) ∧
    ∀ m : BitVec 24, ∃ u, exec (.fsIsStalled m) t = .next u ∧
      u.resFsu = ⟨true, ⟨0x00#8, .stalled (decide (m ≠ 0#24 ∧ m.toNat ≤ bs.length))⟩⟩

/-- 41_framesync.md R156: the stall test, which only reads `since_cnt`. -/
def Obligations.IsStalledResult : Prop :=
  (∀ c : CmdWord, c &&& 0x000000FF#32 = 0x11#32 → decode c = .ok (.fsIsStalled (c.extractLsb' 8 24))) ∧
  ∀ (n : BitVec 24) (s : State), s.fsuBusy = false → ∃ k, exec (.fsIsStalled n) s = .next
    { s with
      resFsu := ⟨true, ⟨0x00#8, .stalled (decide (n ≠ 0#24 ∧ n.toNat ≤ s.sinceCnt.toNat))⟩⟩
      fsuPhase := .idle
      log := s.log ++ [.done .fsu .ok]
      freeCtr := k }

/-- 41_framesync.md R158: FS_RESET. -/
def Obligations.FsResetResult : Prop :=
  (∀ c : CmdWord, c &&& 0xFFFFFFFF#32 = 0x12#32 → decode c = .ok .fsReset) ∧
  ∀ s : State, s.fsuBusy = false → ∃ k, exec .fsReset s = .next
    { s with
      fill := 0#6, wrPtr := 0#5, sinceCnt := 0#32
      resFsu := ⟨true, ⟨0x00#8, .empty⟩⟩
      fsuPhase := .idle
      log := s.log ++ [.done .fsu .ok]
      freeCtr := k }

/-! ### Particulate reader -/

/-- 44_particulate_reader.md R225, R228: PR_NEXT_READING is accepted, latches its operand and waits for a byte; nothing
of FrameSync is reset. -/
def Obligations.NextReadingStarts : Prop :=
  (∀ c : CmdWord, c &&& 0x000000FF#32 = 0x13#32 → decode c = .ok (.prNextReading (c.extractLsb' 8 24))) ∧
  ∀ (n : BitVec 24) (s : State), s.fsuBusy = false → ∃ body k, exec (.prNextReading n) s = .next
    { s with
      prMax := n, fsuPhase := .prByte, fsuBusy := true
      resFsu := ⟨false, body⟩
      freeCtr := k }

/-- 44_particulate_reader.md R225 to R227: each byte is pushed; then the frame test, then the stall test. The push is
that of the statement PushResult. -/
def Obligations.NextReadingTestsEachByte : Prop :=
  ∀ (b : Byte) (s : State), Ready s → s.fsuPhase = .prByte →
    let p := shiftIn b s
    let valid := p.fill = 32#6 ∧ frameValid (logicalWindow p) = true
    let cnt : BitVec 32 := BitVec.ofNat 32 (min (s.sinceCnt.toNat + 1) (2 ^ 32 - 1))
    (valid → step (s.withInput (.uart (.byte b))) = .next
      { p with
        sinceCnt := 0#32
        resFsu := ⟨true, ⟨0x00#8, .values (Vector.ofFn fun i : Fin 13 =>
          (logicalWindow p)[4 + 2 * i.val] ++ (logicalWindow p)[5 + 2 * i.val])⟩⟩
        fsuBusy := false, fsuPhase := .idle
        log := s.log ++ [.rx (.byte b), .done .fsu .ok] }) ∧
    (¬valid → s.prMax ≠ 0#24 ∧ s.prMax.toNat ≤ cnt.toNat → step (s.withInput (.uart (.byte b))) = .next
      { p with
        sinceCnt := cnt
        resFsu := ⟨true, ⟨0x06#8, .framingFault cnt⟩⟩
        fsuBusy := false, fsuPhase := .idle
        log := s.log ++ [.rx (.byte b), .done .fsu .framingFault] }) ∧
    (¬valid → ¬(s.prMax ≠ 0#24 ∧ s.prMax.toNat ≤ cnt.toNat) → step (s.withInput (.uart (.byte b))) = .next
      { p with sinceCnt := cnt, log := s.log ++ [.rx (.byte b)] })

/-- 44_particulate_reader.md R230: a failed byte read ends the operation and pushes nothing. -/
def Obligations.NextReadingUartFailure : Prop :=
  ∀ s : State, Ready s → s.fsuPhase = .prByte →
    step (s.withInput (.uart .fail)) = .next
      { s with
        resFsu := ⟨true, ⟨0x03#8, .transportError .readOneByte none⟩⟩
        fsuBusy := false, fsuPhase := .idle
        log := s.log ++ [.rx .fail, .done .fsu .transportError] }

/-- 44_particulate_reader.md R225: the whole operation on a stream that is one valid frame, with a threshold the 31 bytes
before the last one do not reach. -/
def Obligations.NextReadingReturnsFrameValues : Prop :=
  ∀ (s : State) (n : BitVec 24) (F : Frame), Ready s → s.fsuBusy = false → s.fill = 0#6 → s.sinceCnt = 0#32 →
    frameValid F = true → (n = 0#24 ∨ 32 ≤ n.toNat) →
    ∃ t, runInputs s (issue (.prNextReading n) :: uartBytes F.toList) = .next t ∧
      t.resFsu = ⟨true, ⟨0x00#8, .values (Vector.ofFn fun i : Fin 13 => F[4 + 2 * i.val] ++ F[5 + 2 * i.val])⟩⟩ ∧
      t.fsuBusy = false ∧ t.fsuPhase = .idle ∧ t.sinceCnt = 0#32 ∧
      t.log = s.log ++ F.toList.map (fun b => .rx (.byte b)) ++ [.done .fsu .ok]

/-- 44_particulate_reader.md R227: with `since_cnt` starting at 0 and no frame found, the fault comes at the n-th byte read
and names n. The stream is any n bytes none of whose pushes completes a valid window. -/
def Obligations.NextReadingFaultsAtThreshold : Prop :=
  ∀ (s : State) (n : BitVec 24) (bs : List Byte), Ready s → s.fsuBusy = false → s.sinceCnt = 0#32 → n ≠ 0#24 →
    bs.length = n.toNat → (∀ k, 1 ≤ k → k ≤ bs.length → windowValid (shiftInAll (bs.take k) s) = false) →
    ∃ t, runInputs s (issue (.prNextReading n) :: uartBytes bs) = .next t ∧
      t.resFsu = ⟨true, ⟨0x06#8, .framingFault (n.setWidth 32)⟩⟩ ∧
      t.fsuBusy = false ∧ t.fsuPhase = .idle ∧ t.sinceCnt = n.setWidth 32 ∧
      t.log = s.log ++ bs.map (fun b => .rx (.byte b)) ++ [.done .fsu .framingFault]

/-! ### Gas controller -/

/-- 42_gas_controller.md R170, R180, R188, R196, R197, 43_baseline.md R210, R214, 60_exceptions.md R249: each GSC command
to the idle unit is accepted (busy set, result no longer valid) and runs to its first transaction; GS_LOAD_BASELINE with
an empty history completes at once without one. -/
def Obligations.GscCommandsStart : Prop :=
  ∀ s : State, s.gscBusy = false →
    (∀ n, ∃ body k, exec (.gsStartApp n) s = .next
      { s with gscBusy := true, resGsc := ⟨false, body⟩, freeCtr := k, maxTries := n, tries := 1#24,
               gscPhase := .saStatus }) ∧
    (∀ t, ∃ body k, exec (.gsSwitchMode t) s = .next
      { s with gscBusy := true, resGsc := ⟨false, body⟩, freeCtr := k,
               tgtMode := ⟨t.extractLsb' 4 3, t.getLsbD 3, t.getLsbD 2⟩, coolApplied := false, gscPhase := .smRead }) ∧
    (∃ body k, exec .gsPollOnce s = .next
      { s with gscBusy := true, resGsc := ⟨false, body⟩, freeCtr := k, gscPhase := .poStatus }) ∧
    (s.hist ≠ [] → ∃ body k, exec .gsLoadBaseline s = .next
      { s with gscBusy := true, resGsc := ⟨false, body⟩, freeCtr := k, gscPhase := .blWr }) ∧
    (s.hist = [] → ∃ k, exec .gsLoadBaseline s = .next
      { s with resGsc := ⟨true, ⟨0x00#8, .loadInfo ⟨false, none⟩⟩⟩, freeCtr := k, gscPhase := .idle,
               log := s.log ++ [.done .gsc .ok] }) ∧
    (∃ body k, exec .gsSaveBaseline s = .next
      { s with gscBusy := true, resGsc := ⟨false, body⟩, freeCtr := k, gscPhase := .blRd }) ∧
    (∃ body k, exec .gsSwReset s = .next
      { s with gscBusy := true, resGsc := ⟨false, body⟩, freeCtr := k, gscPhase := .rsWr }) ∧
    (∃ body k, exec .gsCheckHwId s = .next
      { s with gscBusy := true, resGsc := ⟨false, body⟩, freeCtr := k, gscPhase := .idRd })

/-- 10_state.md R23: the transaction each GSC phase waits for. -/
def Obligations.PhaseTransactions : Prop :=
  ∀ s : State,
    (s.gscPhase = .idle → gscRequest s = none) ∧
    (s.gscPhase = .saStatus → gscRequest s = some (.readByte 0x00#8)) ∧
    (s.gscPhase = .saErr → gscRequest s = some (.readByte 0xE0#8)) ∧
    (s.gscPhase = .saStart → gscRequest s = some (.writeBlock 0xF4#8 [])) ∧
    (s.gscPhase = .smRead → gscRequest s = some (.readByte 0x01#8)) ∧
    (s.gscPhase = .smIdleWr → gscRequest s = some (.writeByte 0x01#8 0x00#8)) ∧
    (s.gscPhase = .smCool → gscRequest s = none) ∧
    (s.gscPhase = .smTgtWr → gscRequest s = some (.writeByte 0x01#8 (encodeMode s.tgtMode))) ∧
    (s.gscPhase = .poStatus → gscRequest s = some (.readByte 0x00#8)) ∧
    (s.gscPhase = .poErr → gscRequest s = some (.readByte 0xE0#8)) ∧
    (s.gscPhase = .poResult → gscRequest s = some (.readBlock 0x02#8 8)) ∧
    (s.gscPhase = .blWr → ∀ w, s.hist.getLast? = some w → gscRequest s = some (.writeWord 0x11#8 w)) ∧
    (s.gscPhase = .blRd → gscRequest s = some (.readWord 0x11#8)) ∧
    (s.gscPhase = .rsWr → gscRequest s = some (.writeBlock 0xFF#8 [0x11#8, 0xE5#8, 0x72#8, 0x8A#8])) ∧
    (s.gscPhase = .idRd → gscRequest s = some (.readByte 0x20#8))

/-- 60_exceptions.md R244, R245: a transaction that answers `fail` ends the operation with TRANSPORT_ERROR and its kind
and register; nothing is retried and nothing is undone. -/
def Obligations.TransportFailureEndsOperation : Prop :=
  ∀ (s : State) (req : I2CRequest), Ready s → gscRequest s = some req →
    step (s.withInput (.i2c .fail)) = .next
      { s with
        resGsc := ⟨true, ⟨0x03#8, .transportError (requestKind req) (some (requestReg req))⟩⟩
        gscBusy := false, gscPhase := .idle
        log := s.log ++ [.tx .gsc req .fail, .done .gsc .transportError] }

/-- 42_gas_controller.md R171: the order of the checks of one poll of the handshake. -/
def Obligations.StartAppChecksInOrder : Prop :=
  ∀ (s : State) (sb : Byte), Ready s → s.gscPhase = .saStatus →
    let polled : State := { s with log := s.log ++ [.tx .gsc (.readByte 0x00#8) (.byte sb)] }
    (sb.getLsbD 0 = true → step (s.withInput (.i2c (.byte sb))) = .next { polled with gscPhase := .saErr }) ∧
    (sb.getLsbD 0 = false → sb.getLsbD 4 = false → step (s.withInput (.i2c (.byte sb))) = .next
      { polled with
        ctlState := .appNotStarted
        resGsc := ⟨true, ⟨0x04#8, .noValidApplication sb⟩⟩
        gscBusy := false, gscPhase := .idle, log := polled.log ++ [.done .gsc .noValidApplication] }) ∧
    (sb.getLsbD 0 = false → sb.getLsbD 4 = true → sb.getLsbD 7 = true →
      step (s.withInput (.i2c (.byte sb))) = .next
      { polled with
        ctlState := .appRunning
        resGsc := ⟨true, ⟨0x00#8, .startInfo s.tries⟩⟩
        gscBusy := false, gscPhase := .idle, log := polled.log ++ [.done .gsc .ok] }) ∧
    (sb.getLsbD 0 = false → sb.getLsbD 4 = true → sb.getLsbD 7 = false →
      step (s.withInput (.i2c (.byte sb))) = .next { polled with gscPhase := .saStart })

/-- 42_gas_controller.md R170, R172, R173: after the error register (whose flags are logged) and after the app-start
command, the handshake times out if it has used its tries, and polls once more if not. -/
def Obligations.StartAppLoopsOrTimesOut : Prop :=
  ∀ (s : State) (a : I2CAnswer) (logged : List LogEvent), Ready s →
    ((∃ eb : Byte, s.gscPhase = .saErr ∧ a = .byte eb ∧
        logged = [.tx .gsc (.readByte 0xE0#8) a, .deviceFault ⟨eb.getLsbD 0, eb.getLsbD 1, eb.getLsbD 2, eb.getLsbD 3,
          eb.getLsbD 4, eb.getLsbD 5⟩]) ∨
      (s.gscPhase = .saStart ∧ a = .ack ∧ logged = [.tx .gsc (.writeBlock 0xF4#8 []) a])) →
    (s.maxTries ≠ 0#24 ∧ s.tries = s.maxTries →
      step (s.withInput (.i2c a)) = .next
      { s with
        ctlState := .appNotStarted
        resGsc := ⟨true, ⟨0x05#8, .appStartTimeout s.tries⟩⟩
        gscBusy := false, gscPhase := .idle, log := s.log ++ logged ++ [.done .gsc .appStartTimeout] }) ∧
    (¬(s.maxTries ≠ 0#24 ∧ s.tries = s.maxTries) →
      step (s.withInput (.i2c a)) = .next
      { s with
        tries := BitVec.ofNat 24 (min (s.tries.toNat + 1) (2 ^ 24 - 1))
        gscPhase := .saStatus, log := s.log ++ logged })

/-- 42_gas_controller.md R174: an application that runs already gives success at the first poll, and nothing is written to
the device. -/
def Obligations.StartAppIsIdempotent : Prop :=
  ∀ (s : State) (n : BitVec 24) (sb : Byte), Ready s → s.gscBusy = false →
    sb.getLsbD 0 = false → sb.getLsbD 4 = true → sb.getLsbD 7 = true →
    ∃ t, runInputs s [issue (.gsStartApp n), .i2c (.byte sb)] = .next t ∧
      t.resGsc = ⟨true, ⟨0x00#8, .startInfo 1#24⟩⟩ ∧ t.ctlState = .appRunning ∧ t.gscBusy = false ∧
      t.log = s.log ++ [.tx .gsc (.readByte 0x00#8) (.byte sb), .done .gsc .ok]

/-- 42_gas_controller.md R173: whatever the device answers, GS_START_APP k makes at most k Status reads; against a device
that stays in boot mode it makes exactly k, each followed by an app-start command, and then times out. -/
def Obligations.StartAppIsBoundedByItsTries : Prop :=
  ∀ (s : State) (k : BitVec 24), Ready s → s.gscBusy = false → k ≠ 0#24 →
    (∀ (answers : List I2CAnswer) (t : State), runInputs s (issue (.gsStartApp k) :: answers.map .i2c) = .next t →
      (t.log.filter isStatusRead).length ≤ (s.log.filter isStatusRead).length + k.toNat) ∧
    ∃ t, runInputs s (issue (.gsStartApp k) ::
        (List.replicate k.toNat [Input.i2c (.byte 0x10#8), Input.i2c .ack]).flatten) = .next t ∧
      t.resGsc = ⟨true, ⟨0x05#8, .appStartTimeout k⟩⟩ ∧ t.ctlState = .appNotStarted ∧ t.gscBusy = false ∧
      t.log = s.log ++ (List.replicate k.toNat
        [LogEvent.tx .gsc (.readByte 0x00#8) (.byte 0x10#8), LogEvent.tx .gsc (.writeBlock 0xF4#8 []) .ack]).flatten
        ++ [.done .gsc .appStartTimeout]

/-- 42_gas_controller.md R180 to R182, R187: what GS_SWITCH_MODE does once it has read the device's mode, row by row of
the transition table. -/
def Obligations.SwitchModeTransitionTable : Prop :=
  ∀ (s : State) (mb : Byte), Ready s → s.gscPhase = .smRead →
    let c : DriveMode := ⟨mb.extractLsb' 4 3, mb.getLsbD 3, mb.getLsbD 2⟩
    let g := s.tgtMode
    let rd : State := { s with curMode := c, log := s.log ++ [.tx .gsc (.readByte 0x01#8) (.byte mb)] }
    (c = g → step (s.withInput (.i2c (.byte mb))) = .next
      { rd with
        resGsc := ⟨true, ⟨0x00#8, .switchInfo ⟨false, false⟩⟩⟩
        gscBusy := false, gscPhase := .idle, log := rd.log ++ [.done .gsc .ok] }) ∧
    (c ≠ g → c.driveMode.toNat = 0 → step (s.withInput (.i2c (.byte mb))) = .next { rd with gscPhase := .smTgtWr }) ∧
    (c ≠ g → c.driveMode.toNat ≠ 0 → c.driveMode.toNat ≤ g.driveMode.toNat →
      step (s.withInput (.i2c (.byte mb))) = .next { rd with coolApplied := true, gscPhase := .smIdleWr }) ∧
    (g.driveMode.toNat < c.driveMode.toNat →
      step (s.withInput (.i2c (.byte mb))) = .next { rd with gscPhase := .smTgtWr })

/-- 42_gas_controller.md R180, R184, R185: each step of GS_SWITCH_MODE after the forced-idle write, at a tick of the
cooldown and after the target write. -/
def Obligations.CooldownAndTargetSteps : Prop :=
  ∀ s : State, Ready s →
    (s.gscPhase = .smIdleWr → step (s.withInput (.i2c .ack)) = .next
      { s with
        coolCnt := 0#10, gscPhase := .smCool
        log := s.log ++ [.tx .gsc (.writeByte 0x01#8 0x00#8) .ack] }) ∧
    (s.gscPhase = .smCool → s.stop = true → step (s.withInput .tick) = .next
      { s with
        coolCnt := 0#10, resGsc := ⟨true, ⟨0x08#8, .cancelled s.coolCnt⟩⟩, gscBusy := false, gscPhase := .idle
        log := s.log ++ [.tick true, .done .gsc .cancelled] }) ∧
    (s.gscPhase = .smCool → s.stop = false → s.coolCnt.toNat + 1 < 600 → step (s.withInput .tick) = .next
      { s with coolCnt := s.coolCnt + 1#10, log := s.log ++ [.tick false] }) ∧
    (s.gscPhase = .smCool → s.stop = false → s.coolCnt.toNat + 1 = 600 → step (s.withInput .tick) = .next
      { s with coolCnt := 0#10, gscPhase := .smTgtWr, log := s.log ++ [.tick false] }) ∧
    (s.gscPhase = .smTgtWr → step (s.withInput (.i2c .ack)) = .next
      { s with
        resGsc := ⟨true, ⟨0x00#8, .switchInfo ⟨s.coolApplied, true⟩⟩⟩, gscBusy := false, gscPhase := .idle
        log := s.log ++ [.tx .gsc (.writeByte 0x01#8 (encodeMode s.tgtMode)) .ack, .done .gsc .ok] })

/-- 42_gas_controller.md R187, first, second and fourth row: the whole operation without a cooldown. The written byte is
the operand, because a legal operand has its reserved bits 0 (30_encoding.md R83). -/
def Obligations.SwitchModeWithoutCooldown : Prop :=
  ∀ (s : State) (t mb : Byte), Ready s → s.gscBusy = false → (Instr.gsSwitchMode t).wellFormed = true →
    let c := decodeMode mb
    let g := decodeMode t
    (c = g → ∃ u, runInputs s [issue (.gsSwitchMode t), .i2c (.byte mb)] = .next u ∧
      u.resGsc = ⟨true, ⟨0x00#8, .switchInfo ⟨false, false⟩⟩⟩ ∧ u.gscBusy = false ∧
      u.log = s.log ++ [.tx .gsc (.readByte 0x01#8) (.byte mb), .done .gsc .ok]) ∧
    (c ≠ g → c.driveMode = 0#3 ∨ g.driveMode < c.driveMode →
      ∃ u, runInputs s [issue (.gsSwitchMode t), .i2c (.byte mb), .i2c .ack] = .next u ∧
      u.resGsc = ⟨true, ⟨0x00#8, .switchInfo ⟨false, true⟩⟩⟩ ∧ u.gscBusy = false ∧
      u.log = s.log ++ [.tx .gsc (.readByte 0x01#8) (.byte mb), .tx .gsc (.writeByte 0x01#8 t) .ack, .done .gsc .ok])

/-- 42_gas_controller.md R184, R187 third row: on the cooldown trigger, the device is forced idle, held for 600 ticks and
only then written with the target. -/
def Obligations.CooldownHoldsSixHundredTicks : Prop :=
  ∀ (s : State) (t mb : Byte), Ready s → s.gscBusy = false → s.stop = false →
    (Instr.gsSwitchMode t).wellFormed = true → decodeMode mb ≠ decodeMode t →
    (decodeMode mb).driveMode ≠ 0#3 → (decodeMode mb).driveMode ≤ (decodeMode t).driveMode →
    (∀ k, k < 600 → ∃ u, runInputs s ([issue (.gsSwitchMode t), .i2c (.byte mb), .i2c .ack] ++
        List.replicate k .tick) = .next u ∧ u.gscPhase = .smCool ∧ u.coolCnt.toNat = k ∧ (bstat u).getLsbD 6 = true) ∧
    ∃ u, runInputs s ([issue (.gsSwitchMode t), .i2c (.byte mb), .i2c .ack] ++ List.replicate 600 .tick ++
        [.i2c .ack]) = .next u ∧
      u.resGsc = ⟨true, ⟨0x00#8, .switchInfo ⟨true, true⟩⟩⟩ ∧ u.gscBusy = false ∧ u.coolCnt = 0#10 ∧
      u.log = s.log ++ [.tx .gsc (.readByte 0x01#8) (.byte mb), .tx .gsc (.writeByte 0x01#8 0x00#8) .ack] ++
        List.replicate 600 (.tick false) ++ [.tx .gsc (.writeByte 0x01#8 t) .ack, .done .gsc .ok]

/-- 42_gas_controller.md R185: `stop` at a tick of the cooldown ends it with CANCELLED and the ticks counted so far, and
the target is not written; driving `stop` does nothing else at once; and at any other input `stop` has no effect, so a
`stop` that is low again at the next tick is not seen. -/
def Obligations.StopCancelsCooldownOnly : Prop :=
  (∀ (s : State) (t mb : Byte) (k : Nat), Ready s → s.gscBusy = false → s.stop = false →
    (Instr.gsSwitchMode t).wellFormed = true → decodeMode mb ≠ decodeMode t →
    (decodeMode mb).driveMode ≠ 0#3 → (decodeMode mb).driveMode ≤ (decodeMode t).driveMode → k < 600 →
    ∃ u, runInputs s ([issue (.gsSwitchMode t), .i2c (.byte mb), .i2c .ack] ++ List.replicate k .tick ++
        [.driveStop true, .tick]) = .next u ∧
      u.resGsc = ⟨true, ⟨0x08#8, .cancelled (BitVec.ofNat 10 k)⟩⟩ ∧ u.gscBusy = false ∧ u.gscPhase = .idle ∧
      u.coolCnt = 0#10 ∧
      u.log = s.log ++ [.tx .gsc (.readByte 0x01#8) (.byte mb), .tx .gsc (.writeByte 0x01#8 0x00#8) .ack] ++
        List.replicate k (.tick false) ++ [.tick true, .done .gsc .cancelled]) ∧
  (∀ (s : State) (v : Bool), Ready s → step (s.withInput (.driveStop v)) = .next { s with stop := v }) ∧
  (∀ (s : State) (e : Input) (v : Bool), Ready s → ¬(e = .tick ∧ s.gscPhase = .smCool) → (∀ x, e ≠ .driveStop x) →
    match step (s.withInput e), step (State.withInput { s with stop := v } e) with
    | .next t, .next t' => t' = { t with stop := v }
    | .fault r, .fault r' => r = r'
    | .refused r, .refused r' => r = r'
    | _, _ => False)

/-- 42_gas_controller.md R180, R184: what the log says of a cooldown is kept by every step: a target write that follows a
cooldown is preceded, in the GSC's own log, by the acknowledged idle write and 600 uncancelled ticks. -/
def Obligations.CooldownLogIsKept : Prop :=
  ∀ s t : State, Inv s → CooldownLogged s → step s = .next t → CooldownLogged t

/-- 42_gas_controller.md R188: GS_POLL_ONCE, the whole operation, with `error` before `data_ready`, and each of
its transactions failing. -/
def Obligations.PollOnceResult : Prop :=
  (∀ c : CmdWord, c &&& 0xFFFFFFFF#32 = 0x22#32 → decode c = .ok .gsPollOnce) ∧
  ∀ (s : State) (sb : Byte), Ready s → s.gscBusy = false →
    let polled := LogEvent.tx .gsc (.readByte 0x00#8) (.byte sb)
    (sb.getLsbD 0 = true → ∀ eb : Byte, ∃ k,
      let f : ErrorFlags := ⟨eb.getLsbD 0, eb.getLsbD 1, eb.getLsbD 2, eb.getLsbD 3, eb.getLsbD 4, eb.getLsbD 5⟩
      runInputs s [issue .gsPollOnce, .i2c (.byte sb), .i2c (.byte eb)] = .next
        { s with
          resGsc := ⟨true, ⟨0x02#8, .deviceFault f⟩⟩, gscPhase := .idle, inputs := [], freeCtr := k
          log := s.log ++ [polled, .tx .gsc (.readByte 0xE0#8) (.byte eb), .deviceFault f,
            .done .gsc .deviceFault] }) ∧
    (sb.getLsbD 0 = false → sb.getLsbD 3 = true → ∀ bs : Vector Byte 8, ∃ k,
      runInputs s [issue .gsPollOnce, .i2c (.byte sb), .i2c (.block bs)] = .next
        { s with
          resGsc := ⟨true, ⟨0x00#8, .reading ⟨some (bs[0] ++ bs[1]), some (bs[2] ++ bs[3]), some (decodeStatus bs[4]),
            some (decodeError bs[5]), some (decodeRaw (bs[6] ++ bs[7]))⟩⟩⟩
          gscPhase := .idle, inputs := [], freeCtr := k
          log := s.log ++ [polled, .tx .gsc (.readBlock 0x02#8 8) (.block bs), .done .gsc .ok] }) ∧
    (sb.getLsbD 0 = false → sb.getLsbD 3 = false → ∃ k,
      runInputs s [issue .gsPollOnce, .i2c (.byte sb)] = .next
        { s with
          resGsc := ⟨true, ⟨0x01#8, .none⟩⟩, gscPhase := .idle, inputs := [], freeCtr := k
          log := s.log ++ [polled, .done .gsc .none] }) ∧
    (∃ k, runInputs s [issue .gsPollOnce, .i2c .fail] = .next
      { s with
        resGsc := ⟨true, ⟨0x03#8, .transportError .readByte (some 0x00#8)⟩⟩
        gscPhase := .idle, inputs := [], freeCtr := k
        log := s.log ++ [.tx .gsc (.readByte 0x00#8) .fail, .done .gsc .transportError] }) ∧
    (sb.getLsbD 0 = true → ∃ k, runInputs s [issue .gsPollOnce, .i2c (.byte sb), .i2c .fail] = .next
      { s with
        resGsc := ⟨true, ⟨0x03#8, .transportError .readByte (some 0xE0#8)⟩⟩
        gscPhase := .idle, inputs := [], freeCtr := k
        log := s.log ++ [polled, .tx .gsc (.readByte 0xE0#8) .fail, .done .gsc .transportError] }) ∧
    (sb.getLsbD 0 = false → sb.getLsbD 3 = true → ∃ k,
      runInputs s [issue .gsPollOnce, .i2c (.byte sb), .i2c .fail] = .next
      { s with
        resGsc := ⟨true, ⟨0x03#8, .transportError .readBlock (some 0x02#8)⟩⟩
        gscPhase := .idle, inputs := [], freeCtr := k
        log := s.log ++ [polled, .tx .gsc (.readBlock 0x02#8 8) .fail, .done .gsc .transportError] })

/-- 42_gas_controller.md R196: GS_SW_RESET, the whole operation. -/
def Obligations.SwResetResult : Prop :=
  (∀ c : CmdWord, c &&& 0xFFFFFFFF#32 = 0x25#32 → decode c = .ok .gsSwReset) ∧
  ∀ s : State, Ready s → s.gscBusy = false → ∃ k,
    (runInputs s [issue .gsSwReset, .i2c .ack] = .next
      { s with
        ctlState := .appNotStarted
        resGsc := ⟨true, ⟨0x00#8, .empty⟩⟩, gscPhase := .idle, inputs := [], freeCtr := k
        log := s.log ++ [.tx .gsc (.writeBlock 0xFF#8 [0x11#8, 0xE5#8, 0x72#8, 0x8A#8]) .ack, .done .gsc .ok] }) ∧
    (runInputs s [issue .gsSwReset, .i2c .fail] = .next
      { s with
        resGsc := ⟨true, ⟨0x03#8, .transportError .writeBlock (some 0xFF#8)⟩⟩, gscPhase := .idle, inputs := []
        freeCtr := k
        log := s.log ++ [.tx .gsc (.writeBlock 0xFF#8 [0x11#8, 0xE5#8, 0x72#8, 0x8A#8]) .fail,
          .done .gsc .transportError] })

/-- 42_gas_controller.md R197: GS_CHECK_HW_ID, the whole operation; a mismatch is reported and is no exception. -/
def Obligations.CheckHwIdResult : Prop :=
  (∀ c : CmdWord, c &&& 0xFFFFFFFF#32 = 0x26#32 → decode c = .ok .gsCheckHwId) ∧
  ∀ s : State, Ready s → s.gscBusy = false → ∃ k,
    (∀ v : Byte, runInputs s [issue .gsCheckHwId, .i2c (.byte v)] = .next
      { s with
        resGsc := ⟨true, ⟨0x00#8, .hwIdInfo ⟨v, decide (v = 0x81#8)⟩⟩⟩, gscPhase := .idle, inputs := [], freeCtr := k
        log := s.log ++ [.tx .gsc (.readByte 0x20#8) (.byte v), .done .gsc .ok] }) ∧
    (runInputs s [issue .gsCheckHwId, .i2c .fail] = .next
      { s with
        resGsc := ⟨true, ⟨0x03#8, .transportError .readByte (some 0x20#8)⟩⟩, gscPhase := .idle, inputs := []
        freeCtr := k
        log := s.log ++ [.tx .gsc (.readByte 0x20#8) .fail, .done .gsc .transportError] })

/-! ### Baseline -/

/-- 43_baseline.md R210, R211: GS_LOAD_BASELINE, the whole operation: the newest entry is written, an empty history is a
no-op, and the history is only read. -/
def Obligations.LoadBaselineResult : Prop :=
  (∀ c : CmdWord, c &&& 0xFFFFFFFF#32 = 0x23#32 → decode c = .ok .gsLoadBaseline) ∧
  ∀ s : State, Ready s → s.gscBusy = false → ∃ k,
    (s.hist = [] → runInputs s [issue .gsLoadBaseline] = .next
      { s with
        resGsc := ⟨true, ⟨0x00#8, .loadInfo ⟨false, none⟩⟩⟩, gscPhase := .idle, inputs := [], freeCtr := k
        log := s.log ++ [.done .gsc .ok] }) ∧
    (∀ (older : List U16) (w : U16), s.hist = older ++ [w] →
      runInputs s [issue .gsLoadBaseline, .i2c .ack] = .next
        { s with
          resGsc := ⟨true, ⟨0x00#8, .loadInfo ⟨true, some w⟩⟩⟩, gscPhase := .idle, inputs := [], freeCtr := k
          log := s.log ++ [.tx .gsc (.writeWord 0x11#8 w) .ack, .done .gsc .ok] } ∧
      runInputs s [issue .gsLoadBaseline, .i2c .fail] = .next
        { s with
          resGsc := ⟨true, ⟨0x03#8, .transportError .writeWord (some 0x11#8)⟩⟩, gscPhase := .idle, inputs := []
          freeCtr := k
          log := s.log ++ [.tx .gsc (.writeWord 0x11#8 w) .fail, .done .gsc .transportError] })

/-- 43_baseline.md R214: GS_SAVE_BASELINE, the whole operation: the word read is appended newest last, the oldest entry is
dropped over the cap, and a failed read changes no entry. -/
def Obligations.SaveBaselineResult : Prop :=
  (∀ c : CmdWord, c &&& 0xFFFFFFFF#32 = 0x24#32 → decode c = .ok .gsSaveBaseline) ∧
  ∀ s : State, Ready s → s.gscBusy = false → ∃ k,
    (∀ w : U16, runInputs s [issue .gsSaveBaseline, .i2c (.word w)] = .next
      { s with
        hist := if s.calCap < s.hist.length + 1 then (s.hist ++ [w]).tail else s.hist ++ [w]
        resGsc := ⟨true, ⟨0x00#8, .saveInfo w⟩⟩, gscPhase := .idle, inputs := [], freeCtr := k
        log := s.log ++ [.tx .gsc (.readWord 0x11#8) (.word w), .done .gsc .ok] }) ∧
    (runInputs s [issue .gsSaveBaseline, .i2c .fail] = .next
      { s with
        resGsc := ⟨true, ⟨0x03#8, .transportError .readWord (some 0x11#8)⟩⟩, gscPhase := .idle, inputs := []
        freeCtr := k
        log := s.log ++ [.tx .gsc (.readWord 0x11#8) .fail, .done .gsc .transportError] })

/-- 43_baseline.md R215: after any saves, the history is the newest `CAL_CAP` entries of what it held and of what was
saved, in order. -/
def Obligations.HistoryKeepsNewestEntries : Prop :=
  ∀ (s : State) (ws : List U16), Ready s → s.gscBusy = false → s.hist.length ≤ s.calCap →
    ∃ t, runInputs s (ws.map fun w => [issue .gsSaveBaseline, Input.i2c (.word w)]).flatten = .next t ∧
      t.gscBusy = false ∧ t.hist.length ≤ t.calCap ∧
      t.hist = (s.hist ++ ws).drop ((s.hist ++ ws).length - s.calCap)

/-- 10_state.md R43: only GS_SAVE_BASELINE, when its read is answered, writes the history. -/
def Obligations.OnlySaveWritesHistory : Prop :=
  ∀ s t : State, step s = .next t → t.hist ≠ s.hist →
    ∃ (w : U16) (rest : List Input), s.gscPhase = .blRd ∧ s.inputs = .i2c (.word w) :: rest

/-- 10_state.md R40: only the end of GS_START_APP, the end of GS_SW_RESET and block reset write `ctl_state`. -/
def Obligations.OnlyHandshakeAndResetsWriteCtlState : Prop :=
  ∀ s t : State, Inv s → step s = .next t → t.ctlState ≠ s.ctlState →
    (t.ctlState = .appRunning ∧ s.gscPhase = .saStatus ∧
      ∃ tries, t.resGsc = ⟨true, ⟨0x00#8, .startInfo tries⟩⟩) ∨
    (t.ctlState = .appNotStarted ∧
      ((inStartApp s.gscPhase = true ∧ ((∃ b, t.resGsc = ⟨true, ⟨0x04#8, .noValidApplication b⟩⟩) ∨
          ∃ n, t.resGsc = ⟨true, ⟨0x05#8, .appStartTimeout n⟩⟩)) ∨
       (s.gscPhase = .rsWr ∧ t.resGsc = ⟨true, ⟨0x00#8, .empty⟩⟩) ∨
       ∃ rest, s.inputs = .rst :: rest))

/-! ### The whole block -/

/-- 20_memory.md R61, R63, 10_state.md R50, 70_reset_and_hazards.md R282: a step only appends to the log, reset included,
and every transaction it appends is one of the register map, with the primitive and width the map gives and an answer
that fits it. That its unit is the GSC is assumption 19. -/
def Obligations.LogGrowsByMapTransactions : Prop :=
  ∀ s t : State, step s = .next t → ∃ new, t.log = s.log ++ new ∧
    ∀ (u : CmdUnit) (req : I2CRequest) (a : I2CAnswer), .tx u req a ∈ new →
      u = .gsc ∧ mapTransaction req ∧ answerFits req a = true

/-- 20_memory.md R76: the units share nothing: an answer of the UART and an answer of I2CDEV or a tick give the same state
in either order, but for the order of the log. -/
def Obligations.UnitsCommute : Prop :=
  ∀ (s t u : State) (a : UartAnswer) (e : Input), Ready s → (e = .tick ∨ ∃ x, e = .i2c x) →
    runInputs s [.uart a, e] = .next t → runInputs s [e, .uart a] = .next u →
    { t with log := [] } = { u with log := [] } ∧ gscLog t = gscLog u ∧
    t.log.filter (fun ev => !isGscEvent ev) = u.log.filter (fun ev => !isGscEvent ev)

/-- 20_memory.md R75, R76, 70_reset_and_hazards.md R291, R292: a busy unit moves on its own inputs only, and waits as long
as they do not come. -/
def Obligations.BusyUnitsWaitForTheirOwnInputs : Prop :=
  ∀ (s t : State) (e : Input), Ready s → step (s.withInput e) = .next t → e ≠ .rst →
    (s.gscBusy = true → (∀ a, e ≠ .i2c a) → e ≠ .tick →
      t.gscBusy = true ∧ t.gscPhase = s.gscPhase ∧ t.tries = s.tries ∧ t.maxTries = s.maxTries ∧
      t.curMode = s.curMode ∧ t.tgtMode = s.tgtMode ∧ t.coolCnt = s.coolCnt ∧ t.coolApplied = s.coolApplied ∧
      t.ctlState = s.ctlState ∧ t.hist = s.hist ∧ t.resGsc = s.resGsc) ∧
    (s.fsuBusy = true → (∀ a, e ≠ .uart a) →
      t.fsuBusy = true ∧ t.fsuPhase = s.fsuPhase ∧ t.prMax = s.prMax ∧ t.win = s.win ∧ t.wrPtr = s.wrPtr ∧
      t.fill = s.fill ∧ t.sinceCnt = s.sinceCnt ∧ t.resFsu = s.resFsu)

/-- 10_state.md R27, 70_reset_and_hazards.md R294: the HOST alone writes `dbuf`, byte by byte, and the write is in place
for the next command; no command and no answer changes a byte. After `rst` the bytes are free values (assumption 7). -/
def Obligations.OnlyHostWritesDbuf : Prop :=
  (∀ (s : State) (i : BitVec 5) (b : Byte), Ready s →
    step (s.withInput (.writeDbuf i b)) = .next { s with dbuf := s.dbuf.set i.toNat b i.isLt } ∧
    (s.dbuf.set i.toNat b i.isLt)[i.toNat]'i.isLt = b) ∧
  (∀ s t : State, step s = .next t → t.dbuf ≠ s.dbuf → ∃ e rest, s.inputs = e :: rest ∧
    (e = .rst ∨ ∃ i b, e = .writeDbuf i b))

/-! ### Reset and invariants -/

/-- 10_state.md R30, 70_reset_and_hazards.md R280, R283: the values the spec gives at power-on, for every configuration,
launch input and choice of the values it leaves unspecified. That `cool_applied` is 0 is the model's choice
(assumption 21). -/
def Obligations.PowerOnValues : Prop :=
  ∀ (cap : Nat) (h : List U16) (stop : Bool) (u : Unspecified),
    let s := State.powerOn cap h stop u
    s.cmd = none ∧ s.resCdc.valid = false ∧ s.resFsu.valid = false ∧ s.resGsc.valid = false ∧
    s.gscBusy = false ∧ s.fsuBusy = false ∧ bstat s = 0x00#8 ∧ s.wrPtr = 0#5 ∧ s.fill = 0#6 ∧ s.sinceCnt = 0#32 ∧
    s.fsuPhase = .idle ∧ s.ctlState = .appNotStarted ∧ s.gscPhase = .idle ∧ s.coolCnt = 0#10 ∧
    s.coolApplied = false ∧ s.hist = h ∧ s.log = [] ∧ s.calCap = cap

/-- 70_reset_and_hazards.md R280 to R282: block reset gives every register its reset value, abandons what runs without a
result or a log entry, and keeps the history, the log and the strap. That `cool_applied` is 0 and that `stop` is kept are
the model's choices (assumptions 21 and 12). -/
def Obligations.BlockResetResult : Prop :=
  ∀ s : State, Ready s → ∃ t, step (s.withInput .rst) = .next t ∧
    t.cmd = none ∧ t.resCdc.valid = false ∧ t.resFsu.valid = false ∧ t.resGsc.valid = false ∧
    t.gscBusy = false ∧ t.fsuBusy = false ∧ bstat t = 0x00#8 ∧ t.wrPtr = 0#5 ∧ t.fill = 0#6 ∧ t.sinceCnt = 0#32 ∧
    t.fsuPhase = .idle ∧ t.ctlState = .appNotStarted ∧ t.gscPhase = .idle ∧ t.coolCnt = 0#10 ∧
    t.coolApplied = false ∧ t.hist = s.hist ∧ t.log = s.log ∧ t.calCap = s.calCap ∧ t.stop = s.stop ∧
    t.inputs = s.inputs

/-- The invariant, and what the log says of a cooldown, hold at power-on, for every launch input the spec allows. -/
def Obligations.PowerOnMeetsInvariant : Prop :=
  ∀ (cap : Nat) (h : List U16) (stop : Bool) (u : Unspecified), 1 ≤ cap → h.length ≤ cap →
    Inv (State.powerOn cap h stop u) ∧ CooldownLogged (State.powerOn cap h stop u)

/-- Every step keeps the invariant. -/
def Obligations.StepKeepsInvariant : Prop :=
  ∀ s t : State, Inv s → step s = .next t → Inv t

/-- 70_reset_and_hazards.md R296: under weak fairness, a GSC that is busy, and not in a handshake without a bound, becomes
idle again (by completion or by reset). -/
def Obligations.BusyGscCompletesUnderFairness : Prop :=
  ∀ (env : Nat → Input) (run : Nat → State), IsRun env run → WeaklyFair env run → (run 0).cmd = none → Inv (run 0) →
    ∀ n, (run n).gscBusy = true → (inStartApp (run n).gscPhase = true → (run n).maxTries ≠ 0#24) →
      ∃ m, n ≤ m ∧ (run m).gscBusy = false
end

