-- ==== Sys2Proof/Laws/Decode.lean ====
section
/-! SUPPORT. How a word finds its row: a matching word has the row's opcode, opcodes are distinct, so the decoder takes
the one row that matches (30_encoding.md R84). -/

namespace Sys2Proof

/-- Where the mask has a 1, a masked word fixes the bit. -/
theorem getLsbD_of_mask {c k m : CmdWord} (h : c &&& k = m) {i : Nat} (hk : k.getLsbD i = true) :
    c.getLsbD i = m.getLsbD i := by
  have := congrArg (fun x : CmdWord => x.getLsbD i) h
  simpa [hk] using this

/-- Every mask covers the opcode. -/
theorem Format.mask_low (f : Format) {i : Nat} (hi : i < 8) : f.mask.getLsbD i = true := by
  cases f <;> (simp only [Format.mask]; interval_cases i <;> rfl)

theorem Op.opcodeField_of_matches {o : Op} {c : CmdWord} (h : o.matchesWord c = true) : opcodeField c = o.opcode := by
  simp only [Op.matchesWord, beq_iff_eq] at h
  apply BitVec.eq_of_getLsbD_eq
  intro i hi
  have := getLsbD_of_mask h (o.format.mask_low hi)
  simp [opcodeField, this, hi]
  intro
  omega

theorem Op.opcode_injective {o o' : Op} (h : o.opcode = o'.opcode) : o = o' := by
  revert h; cases o <;> cases o' <;> decide

theorem Op.mem_all (o : Op) : o ∈ Op.all := by cases o <;> decide

/-- At most one row matches a word. -/
theorem Op.eq_of_matches {o o' : Op} {c : CmdWord} (h : o.matchesWord c = true) (h' : o'.matchesWord c = true) :
    o = o' := opcode_injective ((opcodeField_of_matches h).symm.trans (opcodeField_of_matches h'))

/-- A word that matches a row decodes to the row's command. -/
theorem decode_of_matches {o : Op} {c : CmdWord} (h : o.matchesWord c = true) : decode c = .ok (o.build c) := by
  have hf : Op.all.find? (fun o => o.matchesWord c) = some o := by
    cases hf : Op.all.find? (fun o => o.matchesWord c) with
    | none => exact absurd h (List.find?_eq_none.mp hf o o.mem_all)
    | some o' =>
      have h' : o'.matchesWord c = true := List.find?_some (p := fun o : Op => o.matchesWord c) hf
      rw [Op.eq_of_matches h' h]
  simp [decode, hf]

/-- A word that decodes matches a row. -/
theorem matches_of_decode {c : CmdWord} {i : Instr} (h : decode c = .ok i) :
    ∃ o : Op, o.matchesWord c = true ∧ i = o.build c := by
  unfold decode at h
  split at h
  · rename_i o ho
    cases h
    exact ⟨o, List.find?_some (p := fun o : Op => o.matchesWord c) ho, rfl⟩
  · split at h <;> cases h

@[simp] theorem Op.op_build (c : CmdWord) (o : Op) : (o.build c).op = o := by cases o <;> rfl

/-- The table's columns are the opcode and the format's mask. -/
theorem Machine.mem_tableRows {o : Op} {m k : CmdWord} :
    (o, m, k) ∈ Machine.tableRows ↔ m = o.opcode.setWidth 32 ∧ k = o.format.mask := by
  cases o <;> simp [Machine.tableRows, Op.opcode, Op.format, Format.mask]

end Sys2Proof
end

