-- ==== Sys2Proof/Laws/State.lean ====
section
/-! SUPPORT. What each named update of State does to each field: one lemma a field, true by rfl. -/

namespace Sys2Proof.Machine

open Sys2Proof

@[simp] theorem logEvent_cmd (ev : LogEvent) (s : State) : (logEvent ev s).cmd = s.cmd := rfl
@[simp] theorem logEvent_dbuf (ev : LogEvent) (s : State) : (logEvent ev s).dbuf = s.dbuf := rfl
@[simp] theorem logEvent_resCdc (ev : LogEvent) (s : State) : (logEvent ev s).resCdc = s.resCdc := rfl
@[simp] theorem logEvent_resFsu (ev : LogEvent) (s : State) : (logEvent ev s).resFsu = s.resFsu := rfl
@[simp] theorem logEvent_resGsc (ev : LogEvent) (s : State) : (logEvent ev s).resGsc = s.resGsc := rfl
@[simp] theorem logEvent_gscBusy (ev : LogEvent) (s : State) : (logEvent ev s).gscBusy = s.gscBusy := rfl
@[simp] theorem logEvent_fsuBusy (ev : LogEvent) (s : State) : (logEvent ev s).fsuBusy = s.fsuBusy := rfl
@[simp] theorem logEvent_stop (ev : LogEvent) (s : State) : (logEvent ev s).stop = s.stop := rfl
@[simp] theorem logEvent_win (ev : LogEvent) (s : State) : (logEvent ev s).win = s.win := rfl
@[simp] theorem logEvent_wrPtr (ev : LogEvent) (s : State) : (logEvent ev s).wrPtr = s.wrPtr := rfl
@[simp] theorem logEvent_fill (ev : LogEvent) (s : State) : (logEvent ev s).fill = s.fill := rfl
@[simp] theorem logEvent_sinceCnt (ev : LogEvent) (s : State) : (logEvent ev s).sinceCnt = s.sinceCnt := rfl
@[simp] theorem logEvent_fsuPhase (ev : LogEvent) (s : State) : (logEvent ev s).fsuPhase = s.fsuPhase := rfl
@[simp] theorem logEvent_prMax (ev : LogEvent) (s : State) : (logEvent ev s).prMax = s.prMax := rfl
@[simp] theorem logEvent_ctlState (ev : LogEvent) (s : State) : (logEvent ev s).ctlState = s.ctlState := rfl
@[simp] theorem logEvent_gscPhase (ev : LogEvent) (s : State) : (logEvent ev s).gscPhase = s.gscPhase := rfl
@[simp] theorem logEvent_tries (ev : LogEvent) (s : State) : (logEvent ev s).tries = s.tries := rfl
@[simp] theorem logEvent_maxTries (ev : LogEvent) (s : State) : (logEvent ev s).maxTries = s.maxTries := rfl
@[simp] theorem logEvent_curMode (ev : LogEvent) (s : State) : (logEvent ev s).curMode = s.curMode := rfl
@[simp] theorem logEvent_tgtMode (ev : LogEvent) (s : State) : (logEvent ev s).tgtMode = s.tgtMode := rfl
@[simp] theorem logEvent_coolCnt (ev : LogEvent) (s : State) : (logEvent ev s).coolCnt = s.coolCnt := rfl
@[simp] theorem logEvent_coolApplied (ev : LogEvent) (s : State) : (logEvent ev s).coolApplied = s.coolApplied := rfl
@[simp] theorem logEvent_hist (ev : LogEvent) (s : State) : (logEvent ev s).hist = s.hist := rfl
@[simp] theorem logEvent_log (ev : LogEvent) (s : State) : (logEvent ev s).log = s.log ++ [ev] := rfl
@[simp] theorem logEvent_calCap (ev : LogEvent) (s : State) : (logEvent ev s).calCap = s.calCap := rfl
@[simp] theorem logEvent_inputs (ev : LogEvent) (s : State) : (logEvent ev s).inputs = s.inputs := rfl
@[simp] theorem logEvent_freeCtr (ev : LogEvent) (s : State) : (logEvent ev s).freeCtr = s.freeCtr := rfl

@[simp] theorem acceptFsu_cmd (s : State) : (acceptFsu s).cmd = s.cmd := rfl
@[simp] theorem acceptFsu_dbuf (s : State) : (acceptFsu s).dbuf = s.dbuf := rfl
@[simp] theorem acceptFsu_resCdc (s : State) : (acceptFsu s).resCdc = s.resCdc := rfl
@[simp] theorem acceptFsu_resFsu (s : State) : (acceptFsu s).resFsu = invalidated s.freeCtr := rfl
@[simp] theorem acceptFsu_resGsc (s : State) : (acceptFsu s).resGsc = s.resGsc := rfl
@[simp] theorem acceptFsu_gscBusy (s : State) : (acceptFsu s).gscBusy = s.gscBusy := rfl
@[simp] theorem acceptFsu_fsuBusy (s : State) : (acceptFsu s).fsuBusy = true := rfl
@[simp] theorem acceptFsu_stop (s : State) : (acceptFsu s).stop = s.stop := rfl
@[simp] theorem acceptFsu_win (s : State) : (acceptFsu s).win = s.win := rfl
@[simp] theorem acceptFsu_wrPtr (s : State) : (acceptFsu s).wrPtr = s.wrPtr := rfl
@[simp] theorem acceptFsu_fill (s : State) : (acceptFsu s).fill = s.fill := rfl
@[simp] theorem acceptFsu_sinceCnt (s : State) : (acceptFsu s).sinceCnt = s.sinceCnt := rfl
@[simp] theorem acceptFsu_fsuPhase (s : State) : (acceptFsu s).fsuPhase = s.fsuPhase := rfl
@[simp] theorem acceptFsu_prMax (s : State) : (acceptFsu s).prMax = s.prMax := rfl
@[simp] theorem acceptFsu_ctlState (s : State) : (acceptFsu s).ctlState = s.ctlState := rfl
@[simp] theorem acceptFsu_gscPhase (s : State) : (acceptFsu s).gscPhase = s.gscPhase := rfl
@[simp] theorem acceptFsu_tries (s : State) : (acceptFsu s).tries = s.tries := rfl
@[simp] theorem acceptFsu_maxTries (s : State) : (acceptFsu s).maxTries = s.maxTries := rfl
@[simp] theorem acceptFsu_curMode (s : State) : (acceptFsu s).curMode = s.curMode := rfl
@[simp] theorem acceptFsu_tgtMode (s : State) : (acceptFsu s).tgtMode = s.tgtMode := rfl
@[simp] theorem acceptFsu_coolCnt (s : State) : (acceptFsu s).coolCnt = s.coolCnt := rfl
@[simp] theorem acceptFsu_coolApplied (s : State) : (acceptFsu s).coolApplied = s.coolApplied := rfl
@[simp] theorem acceptFsu_hist (s : State) : (acceptFsu s).hist = s.hist := rfl
@[simp] theorem acceptFsu_log (s : State) : (acceptFsu s).log = s.log := rfl
@[simp] theorem acceptFsu_calCap (s : State) : (acceptFsu s).calCap = s.calCap := rfl
@[simp] theorem acceptFsu_inputs (s : State) : (acceptFsu s).inputs = s.inputs := rfl
@[simp] theorem acceptFsu_freeCtr (s : State) : (acceptFsu s).freeCtr = s.freeCtr + 1 := rfl

@[simp] theorem acceptGsc_cmd (s : State) : (acceptGsc s).cmd = s.cmd := rfl
@[simp] theorem acceptGsc_dbuf (s : State) : (acceptGsc s).dbuf = s.dbuf := rfl
@[simp] theorem acceptGsc_resCdc (s : State) : (acceptGsc s).resCdc = s.resCdc := rfl
@[simp] theorem acceptGsc_resFsu (s : State) : (acceptGsc s).resFsu = s.resFsu := rfl
@[simp] theorem acceptGsc_resGsc (s : State) : (acceptGsc s).resGsc = invalidated s.freeCtr := rfl
@[simp] theorem acceptGsc_gscBusy (s : State) : (acceptGsc s).gscBusy = true := rfl
@[simp] theorem acceptGsc_fsuBusy (s : State) : (acceptGsc s).fsuBusy = s.fsuBusy := rfl
@[simp] theorem acceptGsc_stop (s : State) : (acceptGsc s).stop = s.stop := rfl
@[simp] theorem acceptGsc_win (s : State) : (acceptGsc s).win = s.win := rfl
@[simp] theorem acceptGsc_wrPtr (s : State) : (acceptGsc s).wrPtr = s.wrPtr := rfl
@[simp] theorem acceptGsc_fill (s : State) : (acceptGsc s).fill = s.fill := rfl
@[simp] theorem acceptGsc_sinceCnt (s : State) : (acceptGsc s).sinceCnt = s.sinceCnt := rfl
@[simp] theorem acceptGsc_fsuPhase (s : State) : (acceptGsc s).fsuPhase = s.fsuPhase := rfl
@[simp] theorem acceptGsc_prMax (s : State) : (acceptGsc s).prMax = s.prMax := rfl
@[simp] theorem acceptGsc_ctlState (s : State) : (acceptGsc s).ctlState = s.ctlState := rfl
@[simp] theorem acceptGsc_gscPhase (s : State) : (acceptGsc s).gscPhase = s.gscPhase := rfl
@[simp] theorem acceptGsc_tries (s : State) : (acceptGsc s).tries = s.tries := rfl
@[simp] theorem acceptGsc_maxTries (s : State) : (acceptGsc s).maxTries = s.maxTries := rfl
@[simp] theorem acceptGsc_curMode (s : State) : (acceptGsc s).curMode = s.curMode := rfl
@[simp] theorem acceptGsc_tgtMode (s : State) : (acceptGsc s).tgtMode = s.tgtMode := rfl
@[simp] theorem acceptGsc_coolCnt (s : State) : (acceptGsc s).coolCnt = s.coolCnt := rfl
@[simp] theorem acceptGsc_coolApplied (s : State) : (acceptGsc s).coolApplied = s.coolApplied := rfl
@[simp] theorem acceptGsc_hist (s : State) : (acceptGsc s).hist = s.hist := rfl
@[simp] theorem acceptGsc_log (s : State) : (acceptGsc s).log = s.log := rfl
@[simp] theorem acceptGsc_calCap (s : State) : (acceptGsc s).calCap = s.calCap := rfl
@[simp] theorem acceptGsc_inputs (s : State) : (acceptGsc s).inputs = s.inputs := rfl
@[simp] theorem acceptGsc_freeCtr (s : State) : (acceptGsc s).freeCtr = s.freeCtr + 1 := rfl

@[simp] theorem completeCdc_cmd (c : ResCode) (p : Payload) (s : State) : (complete .cdc c p s).cmd = s.cmd := rfl
@[simp] theorem completeCdc_dbuf (c : ResCode) (p : Payload) (s : State) : (complete .cdc c p s).dbuf = s.dbuf := rfl
@[simp] theorem completeCdc_resCdc (c : ResCode) (p : Payload) (s : State) : (complete .cdc c p s).resCdc = ⟨true, ⟨resCodeByte c, p⟩⟩ := rfl
@[simp] theorem completeCdc_resFsu (c : ResCode) (p : Payload) (s : State) : (complete .cdc c p s).resFsu = s.resFsu := rfl
@[simp] theorem completeCdc_resGsc (c : ResCode) (p : Payload) (s : State) : (complete .cdc c p s).resGsc = s.resGsc := rfl
@[simp] theorem completeCdc_gscBusy (c : ResCode) (p : Payload) (s : State) : (complete .cdc c p s).gscBusy = s.gscBusy := rfl
@[simp] theorem completeCdc_fsuBusy (c : ResCode) (p : Payload) (s : State) : (complete .cdc c p s).fsuBusy = s.fsuBusy := rfl
@[simp] theorem completeCdc_stop (c : ResCode) (p : Payload) (s : State) : (complete .cdc c p s).stop = s.stop := rfl
@[simp] theorem completeCdc_win (c : ResCode) (p : Payload) (s : State) : (complete .cdc c p s).win = s.win := rfl
@[simp] theorem completeCdc_wrPtr (c : ResCode) (p : Payload) (s : State) : (complete .cdc c p s).wrPtr = s.wrPtr := rfl
@[simp] theorem completeCdc_fill (c : ResCode) (p : Payload) (s : State) : (complete .cdc c p s).fill = s.fill := rfl
@[simp] theorem completeCdc_sinceCnt (c : ResCode) (p : Payload) (s : State) : (complete .cdc c p s).sinceCnt = s.sinceCnt := rfl
@[simp] theorem completeCdc_fsuPhase (c : ResCode) (p : Payload) (s : State) : (complete .cdc c p s).fsuPhase = s.fsuPhase := rfl
@[simp] theorem completeCdc_prMax (c : ResCode) (p : Payload) (s : State) : (complete .cdc c p s).prMax = s.prMax := rfl
@[simp] theorem completeCdc_ctlState (c : ResCode) (p : Payload) (s : State) : (complete .cdc c p s).ctlState = s.ctlState := rfl
@[simp] theorem completeCdc_gscPhase (c : ResCode) (p : Payload) (s : State) : (complete .cdc c p s).gscPhase = s.gscPhase := rfl
@[simp] theorem completeCdc_tries (c : ResCode) (p : Payload) (s : State) : (complete .cdc c p s).tries = s.tries := rfl
@[simp] theorem completeCdc_maxTries (c : ResCode) (p : Payload) (s : State) : (complete .cdc c p s).maxTries = s.maxTries := rfl
@[simp] theorem completeCdc_curMode (c : ResCode) (p : Payload) (s : State) : (complete .cdc c p s).curMode = s.curMode := rfl
@[simp] theorem completeCdc_tgtMode (c : ResCode) (p : Payload) (s : State) : (complete .cdc c p s).tgtMode = s.tgtMode := rfl
@[simp] theorem completeCdc_coolCnt (c : ResCode) (p : Payload) (s : State) : (complete .cdc c p s).coolCnt = s.coolCnt := rfl
@[simp] theorem completeCdc_coolApplied (c : ResCode) (p : Payload) (s : State) : (complete .cdc c p s).coolApplied = s.coolApplied := rfl
@[simp] theorem completeCdc_hist (c : ResCode) (p : Payload) (s : State) : (complete .cdc c p s).hist = s.hist := rfl
@[simp] theorem completeCdc_log (c : ResCode) (p : Payload) (s : State) : (complete .cdc c p s).log = s.log ++ [.done .cdc c] := rfl
@[simp] theorem completeCdc_calCap (c : ResCode) (p : Payload) (s : State) : (complete .cdc c p s).calCap = s.calCap := rfl
@[simp] theorem completeCdc_inputs (c : ResCode) (p : Payload) (s : State) : (complete .cdc c p s).inputs = s.inputs := rfl
@[simp] theorem completeCdc_freeCtr (c : ResCode) (p : Payload) (s : State) : (complete .cdc c p s).freeCtr = s.freeCtr := rfl

@[simp] theorem completeFsu_cmd (c : ResCode) (p : Payload) (s : State) : (complete .fsu c p s).cmd = s.cmd := rfl
@[simp] theorem completeFsu_dbuf (c : ResCode) (p : Payload) (s : State) : (complete .fsu c p s).dbuf = s.dbuf := rfl
@[simp] theorem completeFsu_resCdc (c : ResCode) (p : Payload) (s : State) : (complete .fsu c p s).resCdc = s.resCdc := rfl
@[simp] theorem completeFsu_resFsu (c : ResCode) (p : Payload) (s : State) : (complete .fsu c p s).resFsu = ⟨true, ⟨resCodeByte c, p⟩⟩ := rfl
@[simp] theorem completeFsu_resGsc (c : ResCode) (p : Payload) (s : State) : (complete .fsu c p s).resGsc = s.resGsc := rfl
@[simp] theorem completeFsu_gscBusy (c : ResCode) (p : Payload) (s : State) : (complete .fsu c p s).gscBusy = s.gscBusy := rfl
@[simp] theorem completeFsu_fsuBusy (c : ResCode) (p : Payload) (s : State) : (complete .fsu c p s).fsuBusy = false := rfl
@[simp] theorem completeFsu_stop (c : ResCode) (p : Payload) (s : State) : (complete .fsu c p s).stop = s.stop := rfl
@[simp] theorem completeFsu_win (c : ResCode) (p : Payload) (s : State) : (complete .fsu c p s).win = s.win := rfl
@[simp] theorem completeFsu_wrPtr (c : ResCode) (p : Payload) (s : State) : (complete .fsu c p s).wrPtr = s.wrPtr := rfl
@[simp] theorem completeFsu_fill (c : ResCode) (p : Payload) (s : State) : (complete .fsu c p s).fill = s.fill := rfl
@[simp] theorem completeFsu_sinceCnt (c : ResCode) (p : Payload) (s : State) : (complete .fsu c p s).sinceCnt = s.sinceCnt := rfl
@[simp] theorem completeFsu_fsuPhase (c : ResCode) (p : Payload) (s : State) : (complete .fsu c p s).fsuPhase = .idle := rfl
@[simp] theorem completeFsu_prMax (c : ResCode) (p : Payload) (s : State) : (complete .fsu c p s).prMax = s.prMax := rfl
@[simp] theorem completeFsu_ctlState (c : ResCode) (p : Payload) (s : State) : (complete .fsu c p s).ctlState = s.ctlState := rfl
@[simp] theorem completeFsu_gscPhase (c : ResCode) (p : Payload) (s : State) : (complete .fsu c p s).gscPhase = s.gscPhase := rfl
@[simp] theorem completeFsu_tries (c : ResCode) (p : Payload) (s : State) : (complete .fsu c p s).tries = s.tries := rfl
@[simp] theorem completeFsu_maxTries (c : ResCode) (p : Payload) (s : State) : (complete .fsu c p s).maxTries = s.maxTries := rfl
@[simp] theorem completeFsu_curMode (c : ResCode) (p : Payload) (s : State) : (complete .fsu c p s).curMode = s.curMode := rfl
@[simp] theorem completeFsu_tgtMode (c : ResCode) (p : Payload) (s : State) : (complete .fsu c p s).tgtMode = s.tgtMode := rfl
@[simp] theorem completeFsu_coolCnt (c : ResCode) (p : Payload) (s : State) : (complete .fsu c p s).coolCnt = s.coolCnt := rfl
@[simp] theorem completeFsu_coolApplied (c : ResCode) (p : Payload) (s : State) : (complete .fsu c p s).coolApplied = s.coolApplied := rfl
@[simp] theorem completeFsu_hist (c : ResCode) (p : Payload) (s : State) : (complete .fsu c p s).hist = s.hist := rfl
@[simp] theorem completeFsu_log (c : ResCode) (p : Payload) (s : State) : (complete .fsu c p s).log = s.log ++ [.done .fsu c] := rfl
@[simp] theorem completeFsu_calCap (c : ResCode) (p : Payload) (s : State) : (complete .fsu c p s).calCap = s.calCap := rfl
@[simp] theorem completeFsu_inputs (c : ResCode) (p : Payload) (s : State) : (complete .fsu c p s).inputs = s.inputs := rfl
@[simp] theorem completeFsu_freeCtr (c : ResCode) (p : Payload) (s : State) : (complete .fsu c p s).freeCtr = s.freeCtr := rfl

@[simp] theorem completeGsc_cmd (c : ResCode) (p : Payload) (s : State) : (complete .gsc c p s).cmd = s.cmd := rfl
@[simp] theorem completeGsc_dbuf (c : ResCode) (p : Payload) (s : State) : (complete .gsc c p s).dbuf = s.dbuf := rfl
@[simp] theorem completeGsc_resCdc (c : ResCode) (p : Payload) (s : State) : (complete .gsc c p s).resCdc = s.resCdc := rfl
@[simp] theorem completeGsc_resFsu (c : ResCode) (p : Payload) (s : State) : (complete .gsc c p s).resFsu = s.resFsu := rfl
@[simp] theorem completeGsc_resGsc (c : ResCode) (p : Payload) (s : State) : (complete .gsc c p s).resGsc = ⟨true, ⟨resCodeByte c, p⟩⟩ := rfl
@[simp] theorem completeGsc_gscBusy (c : ResCode) (p : Payload) (s : State) : (complete .gsc c p s).gscBusy = false := rfl
@[simp] theorem completeGsc_fsuBusy (c : ResCode) (p : Payload) (s : State) : (complete .gsc c p s).fsuBusy = s.fsuBusy := rfl
@[simp] theorem completeGsc_stop (c : ResCode) (p : Payload) (s : State) : (complete .gsc c p s).stop = s.stop := rfl
@[simp] theorem completeGsc_win (c : ResCode) (p : Payload) (s : State) : (complete .gsc c p s).win = s.win := rfl
@[simp] theorem completeGsc_wrPtr (c : ResCode) (p : Payload) (s : State) : (complete .gsc c p s).wrPtr = s.wrPtr := rfl
@[simp] theorem completeGsc_fill (c : ResCode) (p : Payload) (s : State) : (complete .gsc c p s).fill = s.fill := rfl
@[simp] theorem completeGsc_sinceCnt (c : ResCode) (p : Payload) (s : State) : (complete .gsc c p s).sinceCnt = s.sinceCnt := rfl
@[simp] theorem completeGsc_fsuPhase (c : ResCode) (p : Payload) (s : State) : (complete .gsc c p s).fsuPhase = s.fsuPhase := rfl
@[simp] theorem completeGsc_prMax (c : ResCode) (p : Payload) (s : State) : (complete .gsc c p s).prMax = s.prMax := rfl
@[simp] theorem completeGsc_ctlState (c : ResCode) (p : Payload) (s : State) : (complete .gsc c p s).ctlState = s.ctlState := rfl
@[simp] theorem completeGsc_gscPhase (c : ResCode) (p : Payload) (s : State) : (complete .gsc c p s).gscPhase = .idle := rfl
@[simp] theorem completeGsc_tries (c : ResCode) (p : Payload) (s : State) : (complete .gsc c p s).tries = s.tries := rfl
@[simp] theorem completeGsc_maxTries (c : ResCode) (p : Payload) (s : State) : (complete .gsc c p s).maxTries = s.maxTries := rfl
@[simp] theorem completeGsc_curMode (c : ResCode) (p : Payload) (s : State) : (complete .gsc c p s).curMode = s.curMode := rfl
@[simp] theorem completeGsc_tgtMode (c : ResCode) (p : Payload) (s : State) : (complete .gsc c p s).tgtMode = s.tgtMode := rfl
@[simp] theorem completeGsc_coolCnt (c : ResCode) (p : Payload) (s : State) : (complete .gsc c p s).coolCnt = s.coolCnt := rfl
@[simp] theorem completeGsc_coolApplied (c : ResCode) (p : Payload) (s : State) : (complete .gsc c p s).coolApplied = s.coolApplied := rfl
@[simp] theorem completeGsc_hist (c : ResCode) (p : Payload) (s : State) : (complete .gsc c p s).hist = s.hist := rfl
@[simp] theorem completeGsc_log (c : ResCode) (p : Payload) (s : State) : (complete .gsc c p s).log = s.log ++ [.done .gsc c] := rfl
@[simp] theorem completeGsc_calCap (c : ResCode) (p : Payload) (s : State) : (complete .gsc c p s).calCap = s.calCap := rfl
@[simp] theorem completeGsc_inputs (c : ResCode) (p : Payload) (s : State) : (complete .gsc c p s).inputs = s.inputs := rfl
@[simp] theorem completeGsc_freeCtr (c : ResCode) (p : Payload) (s : State) : (complete .gsc c p s).freeCtr = s.freeCtr := rfl

@[simp] theorem toPhase_cmd (p : GscPhase) (s : State) : (toPhase p s).cmd = s.cmd := rfl
@[simp] theorem toPhase_dbuf (p : GscPhase) (s : State) : (toPhase p s).dbuf = s.dbuf := rfl
@[simp] theorem toPhase_resCdc (p : GscPhase) (s : State) : (toPhase p s).resCdc = s.resCdc := rfl
@[simp] theorem toPhase_resFsu (p : GscPhase) (s : State) : (toPhase p s).resFsu = s.resFsu := rfl
@[simp] theorem toPhase_resGsc (p : GscPhase) (s : State) : (toPhase p s).resGsc = s.resGsc := rfl
@[simp] theorem toPhase_gscBusy (p : GscPhase) (s : State) : (toPhase p s).gscBusy = s.gscBusy := rfl
@[simp] theorem toPhase_fsuBusy (p : GscPhase) (s : State) : (toPhase p s).fsuBusy = s.fsuBusy := rfl
@[simp] theorem toPhase_stop (p : GscPhase) (s : State) : (toPhase p s).stop = s.stop := rfl
@[simp] theorem toPhase_win (p : GscPhase) (s : State) : (toPhase p s).win = s.win := rfl
@[simp] theorem toPhase_wrPtr (p : GscPhase) (s : State) : (toPhase p s).wrPtr = s.wrPtr := rfl
@[simp] theorem toPhase_fill (p : GscPhase) (s : State) : (toPhase p s).fill = s.fill := rfl
@[simp] theorem toPhase_sinceCnt (p : GscPhase) (s : State) : (toPhase p s).sinceCnt = s.sinceCnt := rfl
@[simp] theorem toPhase_fsuPhase (p : GscPhase) (s : State) : (toPhase p s).fsuPhase = s.fsuPhase := rfl
@[simp] theorem toPhase_prMax (p : GscPhase) (s : State) : (toPhase p s).prMax = s.prMax := rfl
@[simp] theorem toPhase_ctlState (p : GscPhase) (s : State) : (toPhase p s).ctlState = s.ctlState := rfl
@[simp] theorem toPhase_gscPhase (p : GscPhase) (s : State) : (toPhase p s).gscPhase = p := rfl
@[simp] theorem toPhase_tries (p : GscPhase) (s : State) : (toPhase p s).tries = s.tries := rfl
@[simp] theorem toPhase_maxTries (p : GscPhase) (s : State) : (toPhase p s).maxTries = s.maxTries := rfl
@[simp] theorem toPhase_curMode (p : GscPhase) (s : State) : (toPhase p s).curMode = s.curMode := rfl
@[simp] theorem toPhase_tgtMode (p : GscPhase) (s : State) : (toPhase p s).tgtMode = s.tgtMode := rfl
@[simp] theorem toPhase_coolCnt (p : GscPhase) (s : State) : (toPhase p s).coolCnt = s.coolCnt := rfl
@[simp] theorem toPhase_coolApplied (p : GscPhase) (s : State) : (toPhase p s).coolApplied = s.coolApplied := rfl
@[simp] theorem toPhase_hist (p : GscPhase) (s : State) : (toPhase p s).hist = s.hist := rfl
@[simp] theorem toPhase_log (p : GscPhase) (s : State) : (toPhase p s).log = s.log := rfl
@[simp] theorem toPhase_calCap (p : GscPhase) (s : State) : (toPhase p s).calCap = s.calCap := rfl
@[simp] theorem toPhase_inputs (p : GscPhase) (s : State) : (toPhase p s).inputs = s.inputs := rfl
@[simp] theorem toPhase_freeCtr (p : GscPhase) (s : State) : (toPhase p s).freeCtr = s.freeCtr := rfl

@[simp] theorem takeCmd_cmd (s : State) : (takeCmd s).cmd = none := rfl
@[simp] theorem takeCmd_dbuf (s : State) : (takeCmd s).dbuf = s.dbuf := rfl
@[simp] theorem takeCmd_resCdc (s : State) : (takeCmd s).resCdc = s.resCdc := rfl
@[simp] theorem takeCmd_resFsu (s : State) : (takeCmd s).resFsu = s.resFsu := rfl
@[simp] theorem takeCmd_resGsc (s : State) : (takeCmd s).resGsc = s.resGsc := rfl
@[simp] theorem takeCmd_gscBusy (s : State) : (takeCmd s).gscBusy = s.gscBusy := rfl
@[simp] theorem takeCmd_fsuBusy (s : State) : (takeCmd s).fsuBusy = s.fsuBusy := rfl
@[simp] theorem takeCmd_stop (s : State) : (takeCmd s).stop = s.stop := rfl
@[simp] theorem takeCmd_win (s : State) : (takeCmd s).win = s.win := rfl
@[simp] theorem takeCmd_wrPtr (s : State) : (takeCmd s).wrPtr = s.wrPtr := rfl
@[simp] theorem takeCmd_fill (s : State) : (takeCmd s).fill = s.fill := rfl
@[simp] theorem takeCmd_sinceCnt (s : State) : (takeCmd s).sinceCnt = s.sinceCnt := rfl
@[simp] theorem takeCmd_fsuPhase (s : State) : (takeCmd s).fsuPhase = s.fsuPhase := rfl
@[simp] theorem takeCmd_prMax (s : State) : (takeCmd s).prMax = s.prMax := rfl
@[simp] theorem takeCmd_ctlState (s : State) : (takeCmd s).ctlState = s.ctlState := rfl
@[simp] theorem takeCmd_gscPhase (s : State) : (takeCmd s).gscPhase = s.gscPhase := rfl
@[simp] theorem takeCmd_tries (s : State) : (takeCmd s).tries = s.tries := rfl
@[simp] theorem takeCmd_maxTries (s : State) : (takeCmd s).maxTries = s.maxTries := rfl
@[simp] theorem takeCmd_curMode (s : State) : (takeCmd s).curMode = s.curMode := rfl
@[simp] theorem takeCmd_tgtMode (s : State) : (takeCmd s).tgtMode = s.tgtMode := rfl
@[simp] theorem takeCmd_coolCnt (s : State) : (takeCmd s).coolCnt = s.coolCnt := rfl
@[simp] theorem takeCmd_coolApplied (s : State) : (takeCmd s).coolApplied = s.coolApplied := rfl
@[simp] theorem takeCmd_hist (s : State) : (takeCmd s).hist = s.hist := rfl
@[simp] theorem takeCmd_log (s : State) : (takeCmd s).log = s.log := rfl
@[simp] theorem takeCmd_calCap (s : State) : (takeCmd s).calCap = s.calCap := rfl
@[simp] theorem takeCmd_inputs (s : State) : (takeCmd s).inputs = s.inputs := rfl
@[simp] theorem takeCmd_freeCtr (s : State) : (takeCmd s).freeCtr = s.freeCtr := rfl

@[simp] theorem hostWriteCmd_cmd (w : CmdWord) (s : State) : (hostWriteCmd w s).cmd = some w := rfl
@[simp] theorem hostWriteCmd_dbuf (w : CmdWord) (s : State) : (hostWriteCmd w s).dbuf = s.dbuf := rfl
@[simp] theorem hostWriteCmd_resCdc (w : CmdWord) (s : State) : (hostWriteCmd w s).resCdc = s.resCdc := rfl
@[simp] theorem hostWriteCmd_resFsu (w : CmdWord) (s : State) : (hostWriteCmd w s).resFsu = s.resFsu := rfl
@[simp] theorem hostWriteCmd_resGsc (w : CmdWord) (s : State) : (hostWriteCmd w s).resGsc = s.resGsc := rfl
@[simp] theorem hostWriteCmd_gscBusy (w : CmdWord) (s : State) : (hostWriteCmd w s).gscBusy = s.gscBusy := rfl
@[simp] theorem hostWriteCmd_fsuBusy (w : CmdWord) (s : State) : (hostWriteCmd w s).fsuBusy = s.fsuBusy := rfl
@[simp] theorem hostWriteCmd_stop (w : CmdWord) (s : State) : (hostWriteCmd w s).stop = s.stop := rfl
@[simp] theorem hostWriteCmd_win (w : CmdWord) (s : State) : (hostWriteCmd w s).win = s.win := rfl
@[simp] theorem hostWriteCmd_wrPtr (w : CmdWord) (s : State) : (hostWriteCmd w s).wrPtr = s.wrPtr := rfl
@[simp] theorem hostWriteCmd_fill (w : CmdWord) (s : State) : (hostWriteCmd w s).fill = s.fill := rfl
@[simp] theorem hostWriteCmd_sinceCnt (w : CmdWord) (s : State) : (hostWriteCmd w s).sinceCnt = s.sinceCnt := rfl
@[simp] theorem hostWriteCmd_fsuPhase (w : CmdWord) (s : State) : (hostWriteCmd w s).fsuPhase = s.fsuPhase := rfl
@[simp] theorem hostWriteCmd_prMax (w : CmdWord) (s : State) : (hostWriteCmd w s).prMax = s.prMax := rfl
@[simp] theorem hostWriteCmd_ctlState (w : CmdWord) (s : State) : (hostWriteCmd w s).ctlState = s.ctlState := rfl
@[simp] theorem hostWriteCmd_gscPhase (w : CmdWord) (s : State) : (hostWriteCmd w s).gscPhase = s.gscPhase := rfl
@[simp] theorem hostWriteCmd_tries (w : CmdWord) (s : State) : (hostWriteCmd w s).tries = s.tries := rfl
@[simp] theorem hostWriteCmd_maxTries (w : CmdWord) (s : State) : (hostWriteCmd w s).maxTries = s.maxTries := rfl
@[simp] theorem hostWriteCmd_curMode (w : CmdWord) (s : State) : (hostWriteCmd w s).curMode = s.curMode := rfl
@[simp] theorem hostWriteCmd_tgtMode (w : CmdWord) (s : State) : (hostWriteCmd w s).tgtMode = s.tgtMode := rfl
@[simp] theorem hostWriteCmd_coolCnt (w : CmdWord) (s : State) : (hostWriteCmd w s).coolCnt = s.coolCnt := rfl
@[simp] theorem hostWriteCmd_coolApplied (w : CmdWord) (s : State) : (hostWriteCmd w s).coolApplied = s.coolApplied := rfl
@[simp] theorem hostWriteCmd_hist (w : CmdWord) (s : State) : (hostWriteCmd w s).hist = s.hist := rfl
@[simp] theorem hostWriteCmd_log (w : CmdWord) (s : State) : (hostWriteCmd w s).log = s.log := rfl
@[simp] theorem hostWriteCmd_calCap (w : CmdWord) (s : State) : (hostWriteCmd w s).calCap = s.calCap := rfl
@[simp] theorem hostWriteCmd_inputs (w : CmdWord) (s : State) : (hostWriteCmd w s).inputs = s.inputs := rfl
@[simp] theorem hostWriteCmd_freeCtr (w : CmdWord) (s : State) : (hostWriteCmd w s).freeCtr = s.freeCtr := rfl

@[simp] theorem shiftIn_cmd (b : Byte) (s : State) : (shiftIn b s).cmd = s.cmd := rfl
@[simp] theorem shiftIn_dbuf (b : Byte) (s : State) : (shiftIn b s).dbuf = s.dbuf := rfl
@[simp] theorem shiftIn_resCdc (b : Byte) (s : State) : (shiftIn b s).resCdc = s.resCdc := rfl
@[simp] theorem shiftIn_resFsu (b : Byte) (s : State) : (shiftIn b s).resFsu = s.resFsu := rfl
@[simp] theorem shiftIn_resGsc (b : Byte) (s : State) : (shiftIn b s).resGsc = s.resGsc := rfl
@[simp] theorem shiftIn_gscBusy (b : Byte) (s : State) : (shiftIn b s).gscBusy = s.gscBusy := rfl
@[simp] theorem shiftIn_fsuBusy (b : Byte) (s : State) : (shiftIn b s).fsuBusy = s.fsuBusy := rfl
@[simp] theorem shiftIn_stop (b : Byte) (s : State) : (shiftIn b s).stop = s.stop := rfl
@[simp] theorem shiftIn_win (b : Byte) (s : State) : (shiftIn b s).win = s.win.set s.wrPtr.toNat b s.wrPtr.isLt := rfl
@[simp] theorem shiftIn_wrPtr (b : Byte) (s : State) : (shiftIn b s).wrPtr = s.wrPtr + 1#5 := rfl
@[simp] theorem shiftIn_fill (b : Byte) (s : State) : (shiftIn b s).fill = fillInc s.fill := rfl
@[simp] theorem shiftIn_sinceCnt (b : Byte) (s : State) : (shiftIn b s).sinceCnt = s.sinceCnt := rfl
@[simp] theorem shiftIn_fsuPhase (b : Byte) (s : State) : (shiftIn b s).fsuPhase = s.fsuPhase := rfl
@[simp] theorem shiftIn_prMax (b : Byte) (s : State) : (shiftIn b s).prMax = s.prMax := rfl
@[simp] theorem shiftIn_ctlState (b : Byte) (s : State) : (shiftIn b s).ctlState = s.ctlState := rfl
@[simp] theorem shiftIn_gscPhase (b : Byte) (s : State) : (shiftIn b s).gscPhase = s.gscPhase := rfl
@[simp] theorem shiftIn_tries (b : Byte) (s : State) : (shiftIn b s).tries = s.tries := rfl
@[simp] theorem shiftIn_maxTries (b : Byte) (s : State) : (shiftIn b s).maxTries = s.maxTries := rfl
@[simp] theorem shiftIn_curMode (b : Byte) (s : State) : (shiftIn b s).curMode = s.curMode := rfl
@[simp] theorem shiftIn_tgtMode (b : Byte) (s : State) : (shiftIn b s).tgtMode = s.tgtMode := rfl
@[simp] theorem shiftIn_coolCnt (b : Byte) (s : State) : (shiftIn b s).coolCnt = s.coolCnt := rfl
@[simp] theorem shiftIn_coolApplied (b : Byte) (s : State) : (shiftIn b s).coolApplied = s.coolApplied := rfl
@[simp] theorem shiftIn_hist (b : Byte) (s : State) : (shiftIn b s).hist = s.hist := rfl
@[simp] theorem shiftIn_log (b : Byte) (s : State) : (shiftIn b s).log = s.log := rfl
@[simp] theorem shiftIn_calCap (b : Byte) (s : State) : (shiftIn b s).calCap = s.calCap := rfl
@[simp] theorem shiftIn_inputs (b : Byte) (s : State) : (shiftIn b s).inputs = s.inputs := rfl
@[simp] theorem shiftIn_freeCtr (b : Byte) (s : State) : (shiftIn b s).freeCtr = s.freeCtr := rfl

@[simp] theorem setCtl_cmd (c : CtlState) (s : State) : (setCtl c s).cmd = s.cmd := rfl
@[simp] theorem setCtl_dbuf (c : CtlState) (s : State) : (setCtl c s).dbuf = s.dbuf := rfl
@[simp] theorem setCtl_resCdc (c : CtlState) (s : State) : (setCtl c s).resCdc = s.resCdc := rfl
@[simp] theorem setCtl_resFsu (c : CtlState) (s : State) : (setCtl c s).resFsu = s.resFsu := rfl
@[simp] theorem setCtl_resGsc (c : CtlState) (s : State) : (setCtl c s).resGsc = s.resGsc := rfl
@[simp] theorem setCtl_gscBusy (c : CtlState) (s : State) : (setCtl c s).gscBusy = s.gscBusy := rfl
@[simp] theorem setCtl_fsuBusy (c : CtlState) (s : State) : (setCtl c s).fsuBusy = s.fsuBusy := rfl
@[simp] theorem setCtl_stop (c : CtlState) (s : State) : (setCtl c s).stop = s.stop := rfl
@[simp] theorem setCtl_win (c : CtlState) (s : State) : (setCtl c s).win = s.win := rfl
@[simp] theorem setCtl_wrPtr (c : CtlState) (s : State) : (setCtl c s).wrPtr = s.wrPtr := rfl
@[simp] theorem setCtl_fill (c : CtlState) (s : State) : (setCtl c s).fill = s.fill := rfl
@[simp] theorem setCtl_sinceCnt (c : CtlState) (s : State) : (setCtl c s).sinceCnt = s.sinceCnt := rfl
@[simp] theorem setCtl_fsuPhase (c : CtlState) (s : State) : (setCtl c s).fsuPhase = s.fsuPhase := rfl
@[simp] theorem setCtl_prMax (c : CtlState) (s : State) : (setCtl c s).prMax = s.prMax := rfl
@[simp] theorem setCtl_ctlState (c : CtlState) (s : State) : (setCtl c s).ctlState = c := rfl
@[simp] theorem setCtl_gscPhase (c : CtlState) (s : State) : (setCtl c s).gscPhase = s.gscPhase := rfl
@[simp] theorem setCtl_tries (c : CtlState) (s : State) : (setCtl c s).tries = s.tries := rfl
@[simp] theorem setCtl_maxTries (c : CtlState) (s : State) : (setCtl c s).maxTries = s.maxTries := rfl
@[simp] theorem setCtl_curMode (c : CtlState) (s : State) : (setCtl c s).curMode = s.curMode := rfl
@[simp] theorem setCtl_tgtMode (c : CtlState) (s : State) : (setCtl c s).tgtMode = s.tgtMode := rfl
@[simp] theorem setCtl_coolCnt (c : CtlState) (s : State) : (setCtl c s).coolCnt = s.coolCnt := rfl
@[simp] theorem setCtl_coolApplied (c : CtlState) (s : State) : (setCtl c s).coolApplied = s.coolApplied := rfl
@[simp] theorem setCtl_hist (c : CtlState) (s : State) : (setCtl c s).hist = s.hist := rfl
@[simp] theorem setCtl_log (c : CtlState) (s : State) : (setCtl c s).log = s.log := rfl
@[simp] theorem setCtl_calCap (c : CtlState) (s : State) : (setCtl c s).calCap = s.calCap := rfl
@[simp] theorem setCtl_inputs (c : CtlState) (s : State) : (setCtl c s).inputs = s.inputs := rfl
@[simp] theorem setCtl_freeCtr (c : CtlState) (s : State) : (setCtl c s).freeCtr = s.freeCtr := rfl

@[simp] theorem setSince_cmd (c : BitVec 32) (s : State) : (setSince c s).cmd = s.cmd := rfl
@[simp] theorem setSince_dbuf (c : BitVec 32) (s : State) : (setSince c s).dbuf = s.dbuf := rfl
@[simp] theorem setSince_resCdc (c : BitVec 32) (s : State) : (setSince c s).resCdc = s.resCdc := rfl
@[simp] theorem setSince_resFsu (c : BitVec 32) (s : State) : (setSince c s).resFsu = s.resFsu := rfl
@[simp] theorem setSince_resGsc (c : BitVec 32) (s : State) : (setSince c s).resGsc = s.resGsc := rfl
@[simp] theorem setSince_gscBusy (c : BitVec 32) (s : State) : (setSince c s).gscBusy = s.gscBusy := rfl
@[simp] theorem setSince_fsuBusy (c : BitVec 32) (s : State) : (setSince c s).fsuBusy = s.fsuBusy := rfl
@[simp] theorem setSince_stop (c : BitVec 32) (s : State) : (setSince c s).stop = s.stop := rfl
@[simp] theorem setSince_win (c : BitVec 32) (s : State) : (setSince c s).win = s.win := rfl
@[simp] theorem setSince_wrPtr (c : BitVec 32) (s : State) : (setSince c s).wrPtr = s.wrPtr := rfl
@[simp] theorem setSince_fill (c : BitVec 32) (s : State) : (setSince c s).fill = s.fill := rfl
@[simp] theorem setSince_sinceCnt (c : BitVec 32) (s : State) : (setSince c s).sinceCnt = c := rfl
@[simp] theorem setSince_fsuPhase (c : BitVec 32) (s : State) : (setSince c s).fsuPhase = s.fsuPhase := rfl
@[simp] theorem setSince_prMax (c : BitVec 32) (s : State) : (setSince c s).prMax = s.prMax := rfl
@[simp] theorem setSince_ctlState (c : BitVec 32) (s : State) : (setSince c s).ctlState = s.ctlState := rfl
@[simp] theorem setSince_gscPhase (c : BitVec 32) (s : State) : (setSince c s).gscPhase = s.gscPhase := rfl
@[simp] theorem setSince_tries (c : BitVec 32) (s : State) : (setSince c s).tries = s.tries := rfl
@[simp] theorem setSince_maxTries (c : BitVec 32) (s : State) : (setSince c s).maxTries = s.maxTries := rfl
@[simp] theorem setSince_curMode (c : BitVec 32) (s : State) : (setSince c s).curMode = s.curMode := rfl
@[simp] theorem setSince_tgtMode (c : BitVec 32) (s : State) : (setSince c s).tgtMode = s.tgtMode := rfl
@[simp] theorem setSince_coolCnt (c : BitVec 32) (s : State) : (setSince c s).coolCnt = s.coolCnt := rfl
@[simp] theorem setSince_coolApplied (c : BitVec 32) (s : State) : (setSince c s).coolApplied = s.coolApplied := rfl
@[simp] theorem setSince_hist (c : BitVec 32) (s : State) : (setSince c s).hist = s.hist := rfl
@[simp] theorem setSince_log (c : BitVec 32) (s : State) : (setSince c s).log = s.log := rfl
@[simp] theorem setSince_calCap (c : BitVec 32) (s : State) : (setSince c s).calCap = s.calCap := rfl
@[simp] theorem setSince_inputs (c : BitVec 32) (s : State) : (setSince c s).inputs = s.inputs := rfl
@[simp] theorem setSince_freeCtr (c : BitVec 32) (s : State) : (setSince c s).freeCtr = s.freeCtr := rfl

@[simp] theorem waitByte_cmd (n : BitVec 24) (s : State) : (waitByte n s).cmd = s.cmd := rfl
@[simp] theorem waitByte_dbuf (n : BitVec 24) (s : State) : (waitByte n s).dbuf = s.dbuf := rfl
@[simp] theorem waitByte_resCdc (n : BitVec 24) (s : State) : (waitByte n s).resCdc = s.resCdc := rfl
@[simp] theorem waitByte_resFsu (n : BitVec 24) (s : State) : (waitByte n s).resFsu = s.resFsu := rfl
@[simp] theorem waitByte_resGsc (n : BitVec 24) (s : State) : (waitByte n s).resGsc = s.resGsc := rfl
@[simp] theorem waitByte_gscBusy (n : BitVec 24) (s : State) : (waitByte n s).gscBusy = s.gscBusy := rfl
@[simp] theorem waitByte_fsuBusy (n : BitVec 24) (s : State) : (waitByte n s).fsuBusy = s.fsuBusy := rfl
@[simp] theorem waitByte_stop (n : BitVec 24) (s : State) : (waitByte n s).stop = s.stop := rfl
@[simp] theorem waitByte_win (n : BitVec 24) (s : State) : (waitByte n s).win = s.win := rfl
@[simp] theorem waitByte_wrPtr (n : BitVec 24) (s : State) : (waitByte n s).wrPtr = s.wrPtr := rfl
@[simp] theorem waitByte_fill (n : BitVec 24) (s : State) : (waitByte n s).fill = s.fill := rfl
@[simp] theorem waitByte_sinceCnt (n : BitVec 24) (s : State) : (waitByte n s).sinceCnt = s.sinceCnt := rfl
@[simp] theorem waitByte_fsuPhase (n : BitVec 24) (s : State) : (waitByte n s).fsuPhase = .prByte := rfl
@[simp] theorem waitByte_prMax (n : BitVec 24) (s : State) : (waitByte n s).prMax = n := rfl
@[simp] theorem waitByte_ctlState (n : BitVec 24) (s : State) : (waitByte n s).ctlState = s.ctlState := rfl
@[simp] theorem waitByte_gscPhase (n : BitVec 24) (s : State) : (waitByte n s).gscPhase = s.gscPhase := rfl
@[simp] theorem waitByte_tries (n : BitVec 24) (s : State) : (waitByte n s).tries = s.tries := rfl
@[simp] theorem waitByte_maxTries (n : BitVec 24) (s : State) : (waitByte n s).maxTries = s.maxTries := rfl
@[simp] theorem waitByte_curMode (n : BitVec 24) (s : State) : (waitByte n s).curMode = s.curMode := rfl
@[simp] theorem waitByte_tgtMode (n : BitVec 24) (s : State) : (waitByte n s).tgtMode = s.tgtMode := rfl
@[simp] theorem waitByte_coolCnt (n : BitVec 24) (s : State) : (waitByte n s).coolCnt = s.coolCnt := rfl
@[simp] theorem waitByte_coolApplied (n : BitVec 24) (s : State) : (waitByte n s).coolApplied = s.coolApplied := rfl
@[simp] theorem waitByte_hist (n : BitVec 24) (s : State) : (waitByte n s).hist = s.hist := rfl
@[simp] theorem waitByte_log (n : BitVec 24) (s : State) : (waitByte n s).log = s.log := rfl
@[simp] theorem waitByte_calCap (n : BitVec 24) (s : State) : (waitByte n s).calCap = s.calCap := rfl
@[simp] theorem waitByte_inputs (n : BitVec 24) (s : State) : (waitByte n s).inputs = s.inputs := rfl
@[simp] theorem waitByte_freeCtr (n : BitVec 24) (s : State) : (waitByte n s).freeCtr = s.freeCtr := rfl

@[simp] theorem initTries_cmd (n : BitVec 24) (s : State) : (initTries n s).cmd = s.cmd := rfl
@[simp] theorem initTries_dbuf (n : BitVec 24) (s : State) : (initTries n s).dbuf = s.dbuf := rfl
@[simp] theorem initTries_resCdc (n : BitVec 24) (s : State) : (initTries n s).resCdc = s.resCdc := rfl
@[simp] theorem initTries_resFsu (n : BitVec 24) (s : State) : (initTries n s).resFsu = s.resFsu := rfl
@[simp] theorem initTries_resGsc (n : BitVec 24) (s : State) : (initTries n s).resGsc = s.resGsc := rfl
@[simp] theorem initTries_gscBusy (n : BitVec 24) (s : State) : (initTries n s).gscBusy = s.gscBusy := rfl
@[simp] theorem initTries_fsuBusy (n : BitVec 24) (s : State) : (initTries n s).fsuBusy = s.fsuBusy := rfl
@[simp] theorem initTries_stop (n : BitVec 24) (s : State) : (initTries n s).stop = s.stop := rfl
@[simp] theorem initTries_win (n : BitVec 24) (s : State) : (initTries n s).win = s.win := rfl
@[simp] theorem initTries_wrPtr (n : BitVec 24) (s : State) : (initTries n s).wrPtr = s.wrPtr := rfl
@[simp] theorem initTries_fill (n : BitVec 24) (s : State) : (initTries n s).fill = s.fill := rfl
@[simp] theorem initTries_sinceCnt (n : BitVec 24) (s : State) : (initTries n s).sinceCnt = s.sinceCnt := rfl
@[simp] theorem initTries_fsuPhase (n : BitVec 24) (s : State) : (initTries n s).fsuPhase = s.fsuPhase := rfl
@[simp] theorem initTries_prMax (n : BitVec 24) (s : State) : (initTries n s).prMax = s.prMax := rfl
@[simp] theorem initTries_ctlState (n : BitVec 24) (s : State) : (initTries n s).ctlState = s.ctlState := rfl
@[simp] theorem initTries_gscPhase (n : BitVec 24) (s : State) : (initTries n s).gscPhase = s.gscPhase := rfl
@[simp] theorem initTries_tries (n : BitVec 24) (s : State) : (initTries n s).tries = 0#24 := rfl
@[simp] theorem initTries_maxTries (n : BitVec 24) (s : State) : (initTries n s).maxTries = n := rfl
@[simp] theorem initTries_curMode (n : BitVec 24) (s : State) : (initTries n s).curMode = s.curMode := rfl
@[simp] theorem initTries_tgtMode (n : BitVec 24) (s : State) : (initTries n s).tgtMode = s.tgtMode := rfl
@[simp] theorem initTries_coolCnt (n : BitVec 24) (s : State) : (initTries n s).coolCnt = s.coolCnt := rfl
@[simp] theorem initTries_coolApplied (n : BitVec 24) (s : State) : (initTries n s).coolApplied = s.coolApplied := rfl
@[simp] theorem initTries_hist (n : BitVec 24) (s : State) : (initTries n s).hist = s.hist := rfl
@[simp] theorem initTries_log (n : BitVec 24) (s : State) : (initTries n s).log = s.log := rfl
@[simp] theorem initTries_calCap (n : BitVec 24) (s : State) : (initTries n s).calCap = s.calCap := rfl
@[simp] theorem initTries_inputs (n : BitVec 24) (s : State) : (initTries n s).inputs = s.inputs := rfl
@[simp] theorem initTries_freeCtr (n : BitVec 24) (s : State) : (initTries n s).freeCtr = s.freeCtr := rfl

@[simp] theorem countTry_cmd (s : State) : (countTry s).cmd = s.cmd := rfl
@[simp] theorem countTry_dbuf (s : State) : (countTry s).dbuf = s.dbuf := rfl
@[simp] theorem countTry_resCdc (s : State) : (countTry s).resCdc = s.resCdc := rfl
@[simp] theorem countTry_resFsu (s : State) : (countTry s).resFsu = s.resFsu := rfl
@[simp] theorem countTry_resGsc (s : State) : (countTry s).resGsc = s.resGsc := rfl
@[simp] theorem countTry_gscBusy (s : State) : (countTry s).gscBusy = s.gscBusy := rfl
@[simp] theorem countTry_fsuBusy (s : State) : (countTry s).fsuBusy = s.fsuBusy := rfl
@[simp] theorem countTry_stop (s : State) : (countTry s).stop = s.stop := rfl
@[simp] theorem countTry_win (s : State) : (countTry s).win = s.win := rfl
@[simp] theorem countTry_wrPtr (s : State) : (countTry s).wrPtr = s.wrPtr := rfl
@[simp] theorem countTry_fill (s : State) : (countTry s).fill = s.fill := rfl
@[simp] theorem countTry_sinceCnt (s : State) : (countTry s).sinceCnt = s.sinceCnt := rfl
@[simp] theorem countTry_fsuPhase (s : State) : (countTry s).fsuPhase = s.fsuPhase := rfl
@[simp] theorem countTry_prMax (s : State) : (countTry s).prMax = s.prMax := rfl
@[simp] theorem countTry_ctlState (s : State) : (countTry s).ctlState = s.ctlState := rfl
@[simp] theorem countTry_gscPhase (s : State) : (countTry s).gscPhase = s.gscPhase := rfl
@[simp] theorem countTry_tries (s : State) : (countTry s).tries = satInc s.tries := rfl
@[simp] theorem countTry_maxTries (s : State) : (countTry s).maxTries = s.maxTries := rfl
@[simp] theorem countTry_curMode (s : State) : (countTry s).curMode = s.curMode := rfl
@[simp] theorem countTry_tgtMode (s : State) : (countTry s).tgtMode = s.tgtMode := rfl
@[simp] theorem countTry_coolCnt (s : State) : (countTry s).coolCnt = s.coolCnt := rfl
@[simp] theorem countTry_coolApplied (s : State) : (countTry s).coolApplied = s.coolApplied := rfl
@[simp] theorem countTry_hist (s : State) : (countTry s).hist = s.hist := rfl
@[simp] theorem countTry_log (s : State) : (countTry s).log = s.log := rfl
@[simp] theorem countTry_calCap (s : State) : (countTry s).calCap = s.calCap := rfl
@[simp] theorem countTry_inputs (s : State) : (countTry s).inputs = s.inputs := rfl
@[simp] theorem countTry_freeCtr (s : State) : (countTry s).freeCtr = s.freeCtr := rfl

@[simp] theorem initSwitch_cmd (m : DriveMode) (s : State) : (initSwitch m s).cmd = s.cmd := rfl
@[simp] theorem initSwitch_dbuf (m : DriveMode) (s : State) : (initSwitch m s).dbuf = s.dbuf := rfl
@[simp] theorem initSwitch_resCdc (m : DriveMode) (s : State) : (initSwitch m s).resCdc = s.resCdc := rfl
@[simp] theorem initSwitch_resFsu (m : DriveMode) (s : State) : (initSwitch m s).resFsu = s.resFsu := rfl
@[simp] theorem initSwitch_resGsc (m : DriveMode) (s : State) : (initSwitch m s).resGsc = s.resGsc := rfl
@[simp] theorem initSwitch_gscBusy (m : DriveMode) (s : State) : (initSwitch m s).gscBusy = s.gscBusy := rfl
@[simp] theorem initSwitch_fsuBusy (m : DriveMode) (s : State) : (initSwitch m s).fsuBusy = s.fsuBusy := rfl
@[simp] theorem initSwitch_stop (m : DriveMode) (s : State) : (initSwitch m s).stop = s.stop := rfl
@[simp] theorem initSwitch_win (m : DriveMode) (s : State) : (initSwitch m s).win = s.win := rfl
@[simp] theorem initSwitch_wrPtr (m : DriveMode) (s : State) : (initSwitch m s).wrPtr = s.wrPtr := rfl
@[simp] theorem initSwitch_fill (m : DriveMode) (s : State) : (initSwitch m s).fill = s.fill := rfl
@[simp] theorem initSwitch_sinceCnt (m : DriveMode) (s : State) : (initSwitch m s).sinceCnt = s.sinceCnt := rfl
@[simp] theorem initSwitch_fsuPhase (m : DriveMode) (s : State) : (initSwitch m s).fsuPhase = s.fsuPhase := rfl
@[simp] theorem initSwitch_prMax (m : DriveMode) (s : State) : (initSwitch m s).prMax = s.prMax := rfl
@[simp] theorem initSwitch_ctlState (m : DriveMode) (s : State) : (initSwitch m s).ctlState = s.ctlState := rfl
@[simp] theorem initSwitch_gscPhase (m : DriveMode) (s : State) : (initSwitch m s).gscPhase = s.gscPhase := rfl
@[simp] theorem initSwitch_tries (m : DriveMode) (s : State) : (initSwitch m s).tries = s.tries := rfl
@[simp] theorem initSwitch_maxTries (m : DriveMode) (s : State) : (initSwitch m s).maxTries = s.maxTries := rfl
@[simp] theorem initSwitch_curMode (m : DriveMode) (s : State) : (initSwitch m s).curMode = s.curMode := rfl
@[simp] theorem initSwitch_tgtMode (m : DriveMode) (s : State) : (initSwitch m s).tgtMode = m := rfl
@[simp] theorem initSwitch_coolCnt (m : DriveMode) (s : State) : (initSwitch m s).coolCnt = s.coolCnt := rfl
@[simp] theorem initSwitch_coolApplied (m : DriveMode) (s : State) : (initSwitch m s).coolApplied = false := rfl
@[simp] theorem initSwitch_hist (m : DriveMode) (s : State) : (initSwitch m s).hist = s.hist := rfl
@[simp] theorem initSwitch_log (m : DriveMode) (s : State) : (initSwitch m s).log = s.log := rfl
@[simp] theorem initSwitch_calCap (m : DriveMode) (s : State) : (initSwitch m s).calCap = s.calCap := rfl
@[simp] theorem initSwitch_inputs (m : DriveMode) (s : State) : (initSwitch m s).inputs = s.inputs := rfl
@[simp] theorem initSwitch_freeCtr (m : DriveMode) (s : State) : (initSwitch m s).freeCtr = s.freeCtr := rfl

@[simp] theorem setCurMode_cmd (m : DriveMode) (s : State) : (setCurMode m s).cmd = s.cmd := rfl
@[simp] theorem setCurMode_dbuf (m : DriveMode) (s : State) : (setCurMode m s).dbuf = s.dbuf := rfl
@[simp] theorem setCurMode_resCdc (m : DriveMode) (s : State) : (setCurMode m s).resCdc = s.resCdc := rfl
@[simp] theorem setCurMode_resFsu (m : DriveMode) (s : State) : (setCurMode m s).resFsu = s.resFsu := rfl
@[simp] theorem setCurMode_resGsc (m : DriveMode) (s : State) : (setCurMode m s).resGsc = s.resGsc := rfl
@[simp] theorem setCurMode_gscBusy (m : DriveMode) (s : State) : (setCurMode m s).gscBusy = s.gscBusy := rfl
@[simp] theorem setCurMode_fsuBusy (m : DriveMode) (s : State) : (setCurMode m s).fsuBusy = s.fsuBusy := rfl
@[simp] theorem setCurMode_stop (m : DriveMode) (s : State) : (setCurMode m s).stop = s.stop := rfl
@[simp] theorem setCurMode_win (m : DriveMode) (s : State) : (setCurMode m s).win = s.win := rfl
@[simp] theorem setCurMode_wrPtr (m : DriveMode) (s : State) : (setCurMode m s).wrPtr = s.wrPtr := rfl
@[simp] theorem setCurMode_fill (m : DriveMode) (s : State) : (setCurMode m s).fill = s.fill := rfl
@[simp] theorem setCurMode_sinceCnt (m : DriveMode) (s : State) : (setCurMode m s).sinceCnt = s.sinceCnt := rfl
@[simp] theorem setCurMode_fsuPhase (m : DriveMode) (s : State) : (setCurMode m s).fsuPhase = s.fsuPhase := rfl
@[simp] theorem setCurMode_prMax (m : DriveMode) (s : State) : (setCurMode m s).prMax = s.prMax := rfl
@[simp] theorem setCurMode_ctlState (m : DriveMode) (s : State) : (setCurMode m s).ctlState = s.ctlState := rfl
@[simp] theorem setCurMode_gscPhase (m : DriveMode) (s : State) : (setCurMode m s).gscPhase = s.gscPhase := rfl
@[simp] theorem setCurMode_tries (m : DriveMode) (s : State) : (setCurMode m s).tries = s.tries := rfl
@[simp] theorem setCurMode_maxTries (m : DriveMode) (s : State) : (setCurMode m s).maxTries = s.maxTries := rfl
@[simp] theorem setCurMode_curMode (m : DriveMode) (s : State) : (setCurMode m s).curMode = m := rfl
@[simp] theorem setCurMode_tgtMode (m : DriveMode) (s : State) : (setCurMode m s).tgtMode = s.tgtMode := rfl
@[simp] theorem setCurMode_coolCnt (m : DriveMode) (s : State) : (setCurMode m s).coolCnt = s.coolCnt := rfl
@[simp] theorem setCurMode_coolApplied (m : DriveMode) (s : State) : (setCurMode m s).coolApplied = s.coolApplied := rfl
@[simp] theorem setCurMode_hist (m : DriveMode) (s : State) : (setCurMode m s).hist = s.hist := rfl
@[simp] theorem setCurMode_log (m : DriveMode) (s : State) : (setCurMode m s).log = s.log := rfl
@[simp] theorem setCurMode_calCap (m : DriveMode) (s : State) : (setCurMode m s).calCap = s.calCap := rfl
@[simp] theorem setCurMode_inputs (m : DriveMode) (s : State) : (setCurMode m s).inputs = s.inputs := rfl
@[simp] theorem setCurMode_freeCtr (m : DriveMode) (s : State) : (setCurMode m s).freeCtr = s.freeCtr := rfl

@[simp] theorem markCooldown_cmd (s : State) : (markCooldown s).cmd = s.cmd := rfl
@[simp] theorem markCooldown_dbuf (s : State) : (markCooldown s).dbuf = s.dbuf := rfl
@[simp] theorem markCooldown_resCdc (s : State) : (markCooldown s).resCdc = s.resCdc := rfl
@[simp] theorem markCooldown_resFsu (s : State) : (markCooldown s).resFsu = s.resFsu := rfl
@[simp] theorem markCooldown_resGsc (s : State) : (markCooldown s).resGsc = s.resGsc := rfl
@[simp] theorem markCooldown_gscBusy (s : State) : (markCooldown s).gscBusy = s.gscBusy := rfl
@[simp] theorem markCooldown_fsuBusy (s : State) : (markCooldown s).fsuBusy = s.fsuBusy := rfl
@[simp] theorem markCooldown_stop (s : State) : (markCooldown s).stop = s.stop := rfl
@[simp] theorem markCooldown_win (s : State) : (markCooldown s).win = s.win := rfl
@[simp] theorem markCooldown_wrPtr (s : State) : (markCooldown s).wrPtr = s.wrPtr := rfl
@[simp] theorem markCooldown_fill (s : State) : (markCooldown s).fill = s.fill := rfl
@[simp] theorem markCooldown_sinceCnt (s : State) : (markCooldown s).sinceCnt = s.sinceCnt := rfl
@[simp] theorem markCooldown_fsuPhase (s : State) : (markCooldown s).fsuPhase = s.fsuPhase := rfl
@[simp] theorem markCooldown_prMax (s : State) : (markCooldown s).prMax = s.prMax := rfl
@[simp] theorem markCooldown_ctlState (s : State) : (markCooldown s).ctlState = s.ctlState := rfl
@[simp] theorem markCooldown_gscPhase (s : State) : (markCooldown s).gscPhase = s.gscPhase := rfl
@[simp] theorem markCooldown_tries (s : State) : (markCooldown s).tries = s.tries := rfl
@[simp] theorem markCooldown_maxTries (s : State) : (markCooldown s).maxTries = s.maxTries := rfl
@[simp] theorem markCooldown_curMode (s : State) : (markCooldown s).curMode = s.curMode := rfl
@[simp] theorem markCooldown_tgtMode (s : State) : (markCooldown s).tgtMode = s.tgtMode := rfl
@[simp] theorem markCooldown_coolCnt (s : State) : (markCooldown s).coolCnt = s.coolCnt := rfl
@[simp] theorem markCooldown_coolApplied (s : State) : (markCooldown s).coolApplied = true := rfl
@[simp] theorem markCooldown_hist (s : State) : (markCooldown s).hist = s.hist := rfl
@[simp] theorem markCooldown_log (s : State) : (markCooldown s).log = s.log := rfl
@[simp] theorem markCooldown_calCap (s : State) : (markCooldown s).calCap = s.calCap := rfl
@[simp] theorem markCooldown_inputs (s : State) : (markCooldown s).inputs = s.inputs := rfl
@[simp] theorem markCooldown_freeCtr (s : State) : (markCooldown s).freeCtr = s.freeCtr := rfl

@[simp] theorem setCoolCnt_cmd (c : BitVec 10) (s : State) : (setCoolCnt c s).cmd = s.cmd := rfl
@[simp] theorem setCoolCnt_dbuf (c : BitVec 10) (s : State) : (setCoolCnt c s).dbuf = s.dbuf := rfl
@[simp] theorem setCoolCnt_resCdc (c : BitVec 10) (s : State) : (setCoolCnt c s).resCdc = s.resCdc := rfl
@[simp] theorem setCoolCnt_resFsu (c : BitVec 10) (s : State) : (setCoolCnt c s).resFsu = s.resFsu := rfl
@[simp] theorem setCoolCnt_resGsc (c : BitVec 10) (s : State) : (setCoolCnt c s).resGsc = s.resGsc := rfl
@[simp] theorem setCoolCnt_gscBusy (c : BitVec 10) (s : State) : (setCoolCnt c s).gscBusy = s.gscBusy := rfl
@[simp] theorem setCoolCnt_fsuBusy (c : BitVec 10) (s : State) : (setCoolCnt c s).fsuBusy = s.fsuBusy := rfl
@[simp] theorem setCoolCnt_stop (c : BitVec 10) (s : State) : (setCoolCnt c s).stop = s.stop := rfl
@[simp] theorem setCoolCnt_win (c : BitVec 10) (s : State) : (setCoolCnt c s).win = s.win := rfl
@[simp] theorem setCoolCnt_wrPtr (c : BitVec 10) (s : State) : (setCoolCnt c s).wrPtr = s.wrPtr := rfl
@[simp] theorem setCoolCnt_fill (c : BitVec 10) (s : State) : (setCoolCnt c s).fill = s.fill := rfl
@[simp] theorem setCoolCnt_sinceCnt (c : BitVec 10) (s : State) : (setCoolCnt c s).sinceCnt = s.sinceCnt := rfl
@[simp] theorem setCoolCnt_fsuPhase (c : BitVec 10) (s : State) : (setCoolCnt c s).fsuPhase = s.fsuPhase := rfl
@[simp] theorem setCoolCnt_prMax (c : BitVec 10) (s : State) : (setCoolCnt c s).prMax = s.prMax := rfl
@[simp] theorem setCoolCnt_ctlState (c : BitVec 10) (s : State) : (setCoolCnt c s).ctlState = s.ctlState := rfl
@[simp] theorem setCoolCnt_gscPhase (c : BitVec 10) (s : State) : (setCoolCnt c s).gscPhase = s.gscPhase := rfl
@[simp] theorem setCoolCnt_tries (c : BitVec 10) (s : State) : (setCoolCnt c s).tries = s.tries := rfl
@[simp] theorem setCoolCnt_maxTries (c : BitVec 10) (s : State) : (setCoolCnt c s).maxTries = s.maxTries := rfl
@[simp] theorem setCoolCnt_curMode (c : BitVec 10) (s : State) : (setCoolCnt c s).curMode = s.curMode := rfl
@[simp] theorem setCoolCnt_tgtMode (c : BitVec 10) (s : State) : (setCoolCnt c s).tgtMode = s.tgtMode := rfl
@[simp] theorem setCoolCnt_coolCnt (c : BitVec 10) (s : State) : (setCoolCnt c s).coolCnt = c := rfl
@[simp] theorem setCoolCnt_coolApplied (c : BitVec 10) (s : State) : (setCoolCnt c s).coolApplied = s.coolApplied := rfl
@[simp] theorem setCoolCnt_hist (c : BitVec 10) (s : State) : (setCoolCnt c s).hist = s.hist := rfl
@[simp] theorem setCoolCnt_log (c : BitVec 10) (s : State) : (setCoolCnt c s).log = s.log := rfl
@[simp] theorem setCoolCnt_calCap (c : BitVec 10) (s : State) : (setCoolCnt c s).calCap = s.calCap := rfl
@[simp] theorem setCoolCnt_inputs (c : BitVec 10) (s : State) : (setCoolCnt c s).inputs = s.inputs := rfl
@[simp] theorem setCoolCnt_freeCtr (c : BitVec 10) (s : State) : (setCoolCnt c s).freeCtr = s.freeCtr := rfl

@[simp] theorem appendHist_cmd (w : U16) (s : State) : (appendHist w s).cmd = s.cmd := rfl
@[simp] theorem appendHist_dbuf (w : U16) (s : State) : (appendHist w s).dbuf = s.dbuf := rfl
@[simp] theorem appendHist_resCdc (w : U16) (s : State) : (appendHist w s).resCdc = s.resCdc := rfl
@[simp] theorem appendHist_resFsu (w : U16) (s : State) : (appendHist w s).resFsu = s.resFsu := rfl
@[simp] theorem appendHist_resGsc (w : U16) (s : State) : (appendHist w s).resGsc = s.resGsc := rfl
@[simp] theorem appendHist_gscBusy (w : U16) (s : State) : (appendHist w s).gscBusy = s.gscBusy := rfl
@[simp] theorem appendHist_fsuBusy (w : U16) (s : State) : (appendHist w s).fsuBusy = s.fsuBusy := rfl
@[simp] theorem appendHist_stop (w : U16) (s : State) : (appendHist w s).stop = s.stop := rfl
@[simp] theorem appendHist_win (w : U16) (s : State) : (appendHist w s).win = s.win := rfl
@[simp] theorem appendHist_wrPtr (w : U16) (s : State) : (appendHist w s).wrPtr = s.wrPtr := rfl
@[simp] theorem appendHist_fill (w : U16) (s : State) : (appendHist w s).fill = s.fill := rfl
@[simp] theorem appendHist_sinceCnt (w : U16) (s : State) : (appendHist w s).sinceCnt = s.sinceCnt := rfl
@[simp] theorem appendHist_fsuPhase (w : U16) (s : State) : (appendHist w s).fsuPhase = s.fsuPhase := rfl
@[simp] theorem appendHist_prMax (w : U16) (s : State) : (appendHist w s).prMax = s.prMax := rfl
@[simp] theorem appendHist_ctlState (w : U16) (s : State) : (appendHist w s).ctlState = s.ctlState := rfl
@[simp] theorem appendHist_gscPhase (w : U16) (s : State) : (appendHist w s).gscPhase = s.gscPhase := rfl
@[simp] theorem appendHist_tries (w : U16) (s : State) : (appendHist w s).tries = s.tries := rfl
@[simp] theorem appendHist_maxTries (w : U16) (s : State) : (appendHist w s).maxTries = s.maxTries := rfl
@[simp] theorem appendHist_curMode (w : U16) (s : State) : (appendHist w s).curMode = s.curMode := rfl
@[simp] theorem appendHist_tgtMode (w : U16) (s : State) : (appendHist w s).tgtMode = s.tgtMode := rfl
@[simp] theorem appendHist_coolCnt (w : U16) (s : State) : (appendHist w s).coolCnt = s.coolCnt := rfl
@[simp] theorem appendHist_coolApplied (w : U16) (s : State) : (appendHist w s).coolApplied = s.coolApplied := rfl
@[simp] theorem appendHist_hist (w : U16) (s : State) : (appendHist w s).hist = histAppend s.calCap s.hist w := rfl
@[simp] theorem appendHist_log (w : U16) (s : State) : (appendHist w s).log = s.log := rfl
@[simp] theorem appendHist_calCap (w : U16) (s : State) : (appendHist w s).calCap = s.calCap := rfl
@[simp] theorem appendHist_inputs (w : U16) (s : State) : (appendHist w s).inputs = s.inputs := rfl
@[simp] theorem appendHist_freeCtr (w : U16) (s : State) : (appendHist w s).freeCtr = s.freeCtr := rfl

@[simp] theorem hostWriteDbuf_cmd (i : BitVec 5) (b : Byte) (s : State) : (hostWriteDbuf i b s).cmd = s.cmd := rfl
@[simp] theorem hostWriteDbuf_dbuf (i : BitVec 5) (b : Byte) (s : State) : (hostWriteDbuf i b s).dbuf = s.dbuf.set i.toNat b i.isLt := rfl
@[simp] theorem hostWriteDbuf_resCdc (i : BitVec 5) (b : Byte) (s : State) : (hostWriteDbuf i b s).resCdc = s.resCdc := rfl
@[simp] theorem hostWriteDbuf_resFsu (i : BitVec 5) (b : Byte) (s : State) : (hostWriteDbuf i b s).resFsu = s.resFsu := rfl
@[simp] theorem hostWriteDbuf_resGsc (i : BitVec 5) (b : Byte) (s : State) : (hostWriteDbuf i b s).resGsc = s.resGsc := rfl
@[simp] theorem hostWriteDbuf_gscBusy (i : BitVec 5) (b : Byte) (s : State) : (hostWriteDbuf i b s).gscBusy = s.gscBusy := rfl
@[simp] theorem hostWriteDbuf_fsuBusy (i : BitVec 5) (b : Byte) (s : State) : (hostWriteDbuf i b s).fsuBusy = s.fsuBusy := rfl
@[simp] theorem hostWriteDbuf_stop (i : BitVec 5) (b : Byte) (s : State) : (hostWriteDbuf i b s).stop = s.stop := rfl
@[simp] theorem hostWriteDbuf_win (i : BitVec 5) (b : Byte) (s : State) : (hostWriteDbuf i b s).win = s.win := rfl
@[simp] theorem hostWriteDbuf_wrPtr (i : BitVec 5) (b : Byte) (s : State) : (hostWriteDbuf i b s).wrPtr = s.wrPtr := rfl
@[simp] theorem hostWriteDbuf_fill (i : BitVec 5) (b : Byte) (s : State) : (hostWriteDbuf i b s).fill = s.fill := rfl
@[simp] theorem hostWriteDbuf_sinceCnt (i : BitVec 5) (b : Byte) (s : State) : (hostWriteDbuf i b s).sinceCnt = s.sinceCnt := rfl
@[simp] theorem hostWriteDbuf_fsuPhase (i : BitVec 5) (b : Byte) (s : State) : (hostWriteDbuf i b s).fsuPhase = s.fsuPhase := rfl
@[simp] theorem hostWriteDbuf_prMax (i : BitVec 5) (b : Byte) (s : State) : (hostWriteDbuf i b s).prMax = s.prMax := rfl
@[simp] theorem hostWriteDbuf_ctlState (i : BitVec 5) (b : Byte) (s : State) : (hostWriteDbuf i b s).ctlState = s.ctlState := rfl
@[simp] theorem hostWriteDbuf_gscPhase (i : BitVec 5) (b : Byte) (s : State) : (hostWriteDbuf i b s).gscPhase = s.gscPhase := rfl
@[simp] theorem hostWriteDbuf_tries (i : BitVec 5) (b : Byte) (s : State) : (hostWriteDbuf i b s).tries = s.tries := rfl
@[simp] theorem hostWriteDbuf_maxTries (i : BitVec 5) (b : Byte) (s : State) : (hostWriteDbuf i b s).maxTries = s.maxTries := rfl
@[simp] theorem hostWriteDbuf_curMode (i : BitVec 5) (b : Byte) (s : State) : (hostWriteDbuf i b s).curMode = s.curMode := rfl
@[simp] theorem hostWriteDbuf_tgtMode (i : BitVec 5) (b : Byte) (s : State) : (hostWriteDbuf i b s).tgtMode = s.tgtMode := rfl
@[simp] theorem hostWriteDbuf_coolCnt (i : BitVec 5) (b : Byte) (s : State) : (hostWriteDbuf i b s).coolCnt = s.coolCnt := rfl
@[simp] theorem hostWriteDbuf_coolApplied (i : BitVec 5) (b : Byte) (s : State) : (hostWriteDbuf i b s).coolApplied = s.coolApplied := rfl
@[simp] theorem hostWriteDbuf_hist (i : BitVec 5) (b : Byte) (s : State) : (hostWriteDbuf i b s).hist = s.hist := rfl
@[simp] theorem hostWriteDbuf_log (i : BitVec 5) (b : Byte) (s : State) : (hostWriteDbuf i b s).log = s.log := rfl
@[simp] theorem hostWriteDbuf_calCap (i : BitVec 5) (b : Byte) (s : State) : (hostWriteDbuf i b s).calCap = s.calCap := rfl
@[simp] theorem hostWriteDbuf_inputs (i : BitVec 5) (b : Byte) (s : State) : (hostWriteDbuf i b s).inputs = s.inputs := rfl
@[simp] theorem hostWriteDbuf_freeCtr (i : BitVec 5) (b : Byte) (s : State) : (hostWriteDbuf i b s).freeCtr = s.freeCtr := rfl

@[simp] theorem hostDriveStop_cmd (v : Bool) (s : State) : (hostDriveStop v s).cmd = s.cmd := rfl
@[simp] theorem hostDriveStop_dbuf (v : Bool) (s : State) : (hostDriveStop v s).dbuf = s.dbuf := rfl
@[simp] theorem hostDriveStop_resCdc (v : Bool) (s : State) : (hostDriveStop v s).resCdc = s.resCdc := rfl
@[simp] theorem hostDriveStop_resFsu (v : Bool) (s : State) : (hostDriveStop v s).resFsu = s.resFsu := rfl
@[simp] theorem hostDriveStop_resGsc (v : Bool) (s : State) : (hostDriveStop v s).resGsc = s.resGsc := rfl
@[simp] theorem hostDriveStop_gscBusy (v : Bool) (s : State) : (hostDriveStop v s).gscBusy = s.gscBusy := rfl
@[simp] theorem hostDriveStop_fsuBusy (v : Bool) (s : State) : (hostDriveStop v s).fsuBusy = s.fsuBusy := rfl
@[simp] theorem hostDriveStop_stop (v : Bool) (s : State) : (hostDriveStop v s).stop = v := rfl
@[simp] theorem hostDriveStop_win (v : Bool) (s : State) : (hostDriveStop v s).win = s.win := rfl
@[simp] theorem hostDriveStop_wrPtr (v : Bool) (s : State) : (hostDriveStop v s).wrPtr = s.wrPtr := rfl
@[simp] theorem hostDriveStop_fill (v : Bool) (s : State) : (hostDriveStop v s).fill = s.fill := rfl
@[simp] theorem hostDriveStop_sinceCnt (v : Bool) (s : State) : (hostDriveStop v s).sinceCnt = s.sinceCnt := rfl
@[simp] theorem hostDriveStop_fsuPhase (v : Bool) (s : State) : (hostDriveStop v s).fsuPhase = s.fsuPhase := rfl
@[simp] theorem hostDriveStop_prMax (v : Bool) (s : State) : (hostDriveStop v s).prMax = s.prMax := rfl
@[simp] theorem hostDriveStop_ctlState (v : Bool) (s : State) : (hostDriveStop v s).ctlState = s.ctlState := rfl
@[simp] theorem hostDriveStop_gscPhase (v : Bool) (s : State) : (hostDriveStop v s).gscPhase = s.gscPhase := rfl
@[simp] theorem hostDriveStop_tries (v : Bool) (s : State) : (hostDriveStop v s).tries = s.tries := rfl
@[simp] theorem hostDriveStop_maxTries (v : Bool) (s : State) : (hostDriveStop v s).maxTries = s.maxTries := rfl
@[simp] theorem hostDriveStop_curMode (v : Bool) (s : State) : (hostDriveStop v s).curMode = s.curMode := rfl
@[simp] theorem hostDriveStop_tgtMode (v : Bool) (s : State) : (hostDriveStop v s).tgtMode = s.tgtMode := rfl
@[simp] theorem hostDriveStop_coolCnt (v : Bool) (s : State) : (hostDriveStop v s).coolCnt = s.coolCnt := rfl
@[simp] theorem hostDriveStop_coolApplied (v : Bool) (s : State) : (hostDriveStop v s).coolApplied = s.coolApplied := rfl
@[simp] theorem hostDriveStop_hist (v : Bool) (s : State) : (hostDriveStop v s).hist = s.hist := rfl
@[simp] theorem hostDriveStop_log (v : Bool) (s : State) : (hostDriveStop v s).log = s.log := rfl
@[simp] theorem hostDriveStop_calCap (v : Bool) (s : State) : (hostDriveStop v s).calCap = s.calCap := rfl
@[simp] theorem hostDriveStop_inputs (v : Bool) (s : State) : (hostDriveStop v s).inputs = s.inputs := rfl
@[simp] theorem hostDriveStop_freeCtr (v : Bool) (s : State) : (hostDriveStop v s).freeCtr = s.freeCtr := rfl

@[simp] theorem blockReset_cmd (s : State) : (blockReset s).cmd = none := rfl
@[simp] theorem blockReset_dbuf (s : State) : (blockReset s).dbuf = (Config.freeAtReset s.freeCtr).dbuf := rfl
@[simp] theorem blockReset_resCdc (s : State) : (blockReset s).resCdc = ⟨false, (Config.freeAtReset s.freeCtr).cdcBody⟩ := rfl
@[simp] theorem blockReset_resFsu (s : State) : (blockReset s).resFsu = ⟨false, (Config.freeAtReset s.freeCtr).fsuBody⟩ := rfl
@[simp] theorem blockReset_resGsc (s : State) : (blockReset s).resGsc = ⟨false, (Config.freeAtReset s.freeCtr).gscBody⟩ := rfl
@[simp] theorem blockReset_gscBusy (s : State) : (blockReset s).gscBusy = false := rfl
@[simp] theorem blockReset_fsuBusy (s : State) : (blockReset s).fsuBusy = false := rfl
@[simp] theorem blockReset_stop (s : State) : (blockReset s).stop = s.stop := rfl
@[simp] theorem blockReset_win (s : State) : (blockReset s).win = (Config.freeAtReset s.freeCtr).win := rfl
@[simp] theorem blockReset_wrPtr (s : State) : (blockReset s).wrPtr = 0#5 := rfl
@[simp] theorem blockReset_fill (s : State) : (blockReset s).fill = 0#6 := rfl
@[simp] theorem blockReset_sinceCnt (s : State) : (blockReset s).sinceCnt = 0#32 := rfl
@[simp] theorem blockReset_fsuPhase (s : State) : (blockReset s).fsuPhase = .idle := rfl
@[simp] theorem blockReset_prMax (s : State) : (blockReset s).prMax = (Config.freeAtReset s.freeCtr).prMax := rfl
@[simp] theorem blockReset_ctlState (s : State) : (blockReset s).ctlState = .appNotStarted := rfl
@[simp] theorem blockReset_gscPhase (s : State) : (blockReset s).gscPhase = .idle := rfl
@[simp] theorem blockReset_tries (s : State) : (blockReset s).tries = (Config.freeAtReset s.freeCtr).tries := rfl
@[simp] theorem blockReset_maxTries (s : State) : (blockReset s).maxTries = (Config.freeAtReset s.freeCtr).maxTries := rfl
@[simp] theorem blockReset_curMode (s : State) : (blockReset s).curMode = (Config.freeAtReset s.freeCtr).curMode := rfl
@[simp] theorem blockReset_tgtMode (s : State) : (blockReset s).tgtMode = (Config.freeAtReset s.freeCtr).tgtMode := rfl
@[simp] theorem blockReset_coolCnt (s : State) : (blockReset s).coolCnt = 0#10 := rfl
@[simp] theorem blockReset_coolApplied (s : State) : (blockReset s).coolApplied = false := rfl
@[simp] theorem blockReset_hist (s : State) : (blockReset s).hist = s.hist := rfl
@[simp] theorem blockReset_log (s : State) : (blockReset s).log = s.log := rfl
@[simp] theorem blockReset_calCap (s : State) : (blockReset s).calCap = s.calCap := rfl
@[simp] theorem blockReset_inputs (s : State) : (blockReset s).inputs = s.inputs := rfl
@[simp] theorem blockReset_freeCtr (s : State) : (blockReset s).freeCtr = s.freeCtr + 1 := rfl

@[simp] theorem setInputs_cmd (es : List Input) (s : State) : (setInputs es s).cmd = s.cmd := rfl
@[simp] theorem setInputs_dbuf (es : List Input) (s : State) : (setInputs es s).dbuf = s.dbuf := rfl
@[simp] theorem setInputs_resCdc (es : List Input) (s : State) : (setInputs es s).resCdc = s.resCdc := rfl
@[simp] theorem setInputs_resFsu (es : List Input) (s : State) : (setInputs es s).resFsu = s.resFsu := rfl
@[simp] theorem setInputs_resGsc (es : List Input) (s : State) : (setInputs es s).resGsc = s.resGsc := rfl
@[simp] theorem setInputs_gscBusy (es : List Input) (s : State) : (setInputs es s).gscBusy = s.gscBusy := rfl
@[simp] theorem setInputs_fsuBusy (es : List Input) (s : State) : (setInputs es s).fsuBusy = s.fsuBusy := rfl
@[simp] theorem setInputs_stop (es : List Input) (s : State) : (setInputs es s).stop = s.stop := rfl
@[simp] theorem setInputs_win (es : List Input) (s : State) : (setInputs es s).win = s.win := rfl
@[simp] theorem setInputs_wrPtr (es : List Input) (s : State) : (setInputs es s).wrPtr = s.wrPtr := rfl
@[simp] theorem setInputs_fill (es : List Input) (s : State) : (setInputs es s).fill = s.fill := rfl
@[simp] theorem setInputs_sinceCnt (es : List Input) (s : State) : (setInputs es s).sinceCnt = s.sinceCnt := rfl
@[simp] theorem setInputs_fsuPhase (es : List Input) (s : State) : (setInputs es s).fsuPhase = s.fsuPhase := rfl
@[simp] theorem setInputs_prMax (es : List Input) (s : State) : (setInputs es s).prMax = s.prMax := rfl
@[simp] theorem setInputs_ctlState (es : List Input) (s : State) : (setInputs es s).ctlState = s.ctlState := rfl
@[simp] theorem setInputs_gscPhase (es : List Input) (s : State) : (setInputs es s).gscPhase = s.gscPhase := rfl
@[simp] theorem setInputs_tries (es : List Input) (s : State) : (setInputs es s).tries = s.tries := rfl
@[simp] theorem setInputs_maxTries (es : List Input) (s : State) : (setInputs es s).maxTries = s.maxTries := rfl
@[simp] theorem setInputs_curMode (es : List Input) (s : State) : (setInputs es s).curMode = s.curMode := rfl
@[simp] theorem setInputs_tgtMode (es : List Input) (s : State) : (setInputs es s).tgtMode = s.tgtMode := rfl
@[simp] theorem setInputs_coolCnt (es : List Input) (s : State) : (setInputs es s).coolCnt = s.coolCnt := rfl
@[simp] theorem setInputs_coolApplied (es : List Input) (s : State) : (setInputs es s).coolApplied = s.coolApplied := rfl
@[simp] theorem setInputs_hist (es : List Input) (s : State) : (setInputs es s).hist = s.hist := rfl
@[simp] theorem setInputs_log (es : List Input) (s : State) : (setInputs es s).log = s.log := rfl
@[simp] theorem setInputs_calCap (es : List Input) (s : State) : (setInputs es s).calCap = s.calCap := rfl
@[simp] theorem setInputs_inputs (es : List Input) (s : State) : (setInputs es s).inputs = es := rfl
@[simp] theorem setInputs_freeCtr (es : List Input) (s : State) : (setInputs es s).freeCtr = s.freeCtr := rfl

@[simp] theorem clearSync_cmd (s : State) : (clearSync s).cmd = s.cmd := rfl
@[simp] theorem clearSync_dbuf (s : State) : (clearSync s).dbuf = s.dbuf := rfl
@[simp] theorem clearSync_resCdc (s : State) : (clearSync s).resCdc = s.resCdc := rfl
@[simp] theorem clearSync_resFsu (s : State) : (clearSync s).resFsu = s.resFsu := rfl
@[simp] theorem clearSync_resGsc (s : State) : (clearSync s).resGsc = s.resGsc := rfl
@[simp] theorem clearSync_gscBusy (s : State) : (clearSync s).gscBusy = s.gscBusy := rfl
@[simp] theorem clearSync_fsuBusy (s : State) : (clearSync s).fsuBusy = s.fsuBusy := rfl
@[simp] theorem clearSync_stop (s : State) : (clearSync s).stop = s.stop := rfl
@[simp] theorem clearSync_win (s : State) : (clearSync s).win = s.win := rfl
@[simp] theorem clearSync_wrPtr (s : State) : (clearSync s).wrPtr = 0#5 := rfl
@[simp] theorem clearSync_fill (s : State) : (clearSync s).fill = 0#6 := rfl
@[simp] theorem clearSync_sinceCnt (s : State) : (clearSync s).sinceCnt = 0#32 := rfl
@[simp] theorem clearSync_fsuPhase (s : State) : (clearSync s).fsuPhase = s.fsuPhase := rfl
@[simp] theorem clearSync_prMax (s : State) : (clearSync s).prMax = s.prMax := rfl
@[simp] theorem clearSync_ctlState (s : State) : (clearSync s).ctlState = s.ctlState := rfl
@[simp] theorem clearSync_gscPhase (s : State) : (clearSync s).gscPhase = s.gscPhase := rfl
@[simp] theorem clearSync_tries (s : State) : (clearSync s).tries = s.tries := rfl
@[simp] theorem clearSync_maxTries (s : State) : (clearSync s).maxTries = s.maxTries := rfl
@[simp] theorem clearSync_curMode (s : State) : (clearSync s).curMode = s.curMode := rfl
@[simp] theorem clearSync_tgtMode (s : State) : (clearSync s).tgtMode = s.tgtMode := rfl
@[simp] theorem clearSync_coolCnt (s : State) : (clearSync s).coolCnt = s.coolCnt := rfl
@[simp] theorem clearSync_coolApplied (s : State) : (clearSync s).coolApplied = s.coolApplied := rfl
@[simp] theorem clearSync_hist (s : State) : (clearSync s).hist = s.hist := rfl
@[simp] theorem clearSync_log (s : State) : (clearSync s).log = s.log := rfl
@[simp] theorem clearSync_calCap (s : State) : (clearSync s).calCap = s.calCap := rfl
@[simp] theorem clearSync_inputs (s : State) : (clearSync s).inputs = s.inputs := rfl
@[simp] theorem clearSync_freeCtr (s : State) : (clearSync s).freeCtr = s.freeCtr := rfl

end Sys2Proof.Machine
end

