-- ==== Sys2Proof/Laws/Ops.lean ====
section
/-! SUPPORT. One lemma for each shared operation that says once everything it can do: acceptance, push, the stall test,
the answers of the two transports, the tick, and the continuations of the GSC's operations. -/

namespace Sys2Proof.Machine

open Sys2Proof

theorem startFsu_idle {op : State → State} {s : State} (h : s.fsuBusy = false) :
    startFsu op s = .next (op (acceptFsu s)) := by simp [startFsu, h]

theorem startFsu_busy {op : State → State} {s : State} (h : s.fsuBusy = true) :
    startFsu op s = .refused (.unitBusy .fsu) := by simp [startFsu, h]

theorem startFsu_next {op : State → State} {s t : State} (h : startFsu op s = .next t) :
    s.fsuBusy = false ∧ t = op (acceptFsu s) := by
  unfold startFsu at h
  split at h
  · cases h
  · cases h; exact ⟨Bool.eq_false_iff.mpr ‹_›, rfl⟩

theorem startGsc_idle {op : State → State} {s : State} (h : s.gscBusy = false) :
    startGsc op s = .next (op (acceptGsc s)) := by simp [startGsc, h]

theorem startGsc_busy {op : State → State} {s : State} (h : s.gscBusy = true) :
    startGsc op s = .refused (.unitBusy .gsc) := by simp [startGsc, h]

theorem startGsc_next {op : State → State} {s t : State} (h : startGsc op s = .next t) :
    s.gscBusy = false ∧ t = op (acceptGsc s) := by
  unfold startGsc at h
  split at h
  · cases h
  · cases h; exact ⟨Bool.eq_false_iff.mpr ‹_›, rfl⟩

/-- A push has two ends: a valid window, which is returned and resets the count, or one more byte counted. -/
theorem pushByte_cases (b : Byte) (s : State) :
    (windowValid (shiftIn b s) = true ∧
      pushByte b s = (setSince 0#32 (shiftIn b s), some (logicalWindow (shiftIn b s)))) ∨
    (windowValid (shiftIn b s) = false ∧
      pushByte b s = (setSince (satInc s.sinceCnt) (shiftIn b s), none)) := by
  unfold pushByte
  split
  · exact .inl ⟨‹_›, rfl⟩
  · exact .inr ⟨Bool.eq_false_iff.mpr ‹_›, rfl⟩

/-- A window that is not full is not valid. -/
theorem windowValid_fill {s : State} (h : windowValid s = true) : s.fill = 32#6 := by
  simp only [windowValid, Bool.and_eq_true, beq_iff_eq] at h
  exact h.1

theorem isStalled_iff (m : BitVec 24) (s : State) :
    isStalled m s = true ↔ m ≠ 0#24 ∧ operandFN m ≤ s.sinceCnt := by simp [isStalled]

/-- What PR_NEXT_READING does after a push. -/
theorem prTests_cases (b : Byte) (s : State) :
    (windowValid (shiftIn b s) = true ∧ prTests (pushByte b s) =
      complete .fsu .ok (.values (decodeFrameValues (logicalWindow (shiftIn b s))))
        (setSince 0#32 (shiftIn b s))) ∨
    (windowValid (shiftIn b s) = false ∧ isStalled s.prMax (setSince (satInc s.sinceCnt) (shiftIn b s)) = true ∧
      prTests (pushByte b s) = complete .fsu .framingFault (.framingFault (satInc s.sinceCnt))
        (setSince (satInc s.sinceCnt) (shiftIn b s))) ∨
    (windowValid (shiftIn b s) = false ∧ isStalled s.prMax (setSince (satInc s.sinceCnt) (shiftIn b s)) = false ∧
      prTests (pushByte b s) = setSince (satInc s.sinceCnt) (shiftIn b s)) := by
  rcases pushByte_cases b s with ⟨hv, hp⟩ | ⟨hv, hp⟩
  · exact .inl ⟨hv, by rw [hp]; rfl⟩
  · by_cases hs : isStalled s.prMax (setSince (satInc s.sinceCnt) (shiftIn b s)) = true
    · exact .inr (.inl ⟨hv, hs, by rw [hp]; simp [prTests, hs]⟩)
    · exact .inr (.inr ⟨hv, Bool.eq_false_iff.mpr hs, by rw [hp]; simp [prTests, hs]⟩)

/-- What an answer of the UART does. -/
theorem fsuAnswer_next {a : UartAnswer} {s t : State} (h : fsuAnswer a s = .next t) :
    (s.fsuPhase = .idle ∧ t = s) ∨
    (s.fsuPhase = .prByte ∧ a = .fail ∧
      t = complete .fsu .transportError (.transportError .readOneByte none) (logEvent (.rx .fail) s)) ∨
    (∃ b, s.fsuPhase = .prByte ∧ a = .byte b ∧ t = prTests (pushByte b (logEvent (.rx (.byte b)) s))) := by
  unfold fsuAnswer at h
  split at h
  · cases h; exact .inl ⟨‹_›, rfl⟩
  · split at h
    · cases h; exact .inr (.inl ⟨‹_›, rfl, rfl⟩)
    · cases h; exact .inr (.inr ⟨_, ‹_›, rfl, rfl⟩)

/-- What an answer of I2CDEV does. -/
theorem gscAnswer_next {a : I2CAnswer} {s t : State} (h : gscAnswer a s = .next t) :
    (gscRequest s = none ∧ t = s) ∨
    ∃ req, gscRequest s = some req ∧ answerFits req a = true ∧
      ((a = .fail ∧ t = complete .gsc .transportError (.transportError (requestKind req) (some (requestReg req)))
          (logEvent (.tx .gsc req .fail) s)) ∨
       (a ≠ .fail ∧ t = gscContinue a (logEvent (.tx .gsc req a) s))) := by
  unfold gscAnswer at h
  split at h
  · cases h; exact .inl ⟨‹_›, rfl⟩
  · rename_i req hreq
    refine .inr ⟨req, hreq, ?_⟩
    split at h
    · refine ⟨‹_›, ?_⟩
      split at h
      · subst a; cases h; exact .inl ⟨rfl, rfl⟩
      · cases h; exact .inr ⟨‹_›, rfl⟩
    · cases h

/-- What a tick does. -/
theorem gscTick_next {s t : State} (h : gscTick s = .next t) :
    (s.gscPhase ≠ .smCool ∧ t = s) ∨ (s.gscPhase = .smCool ∧ t = cooldownTick (logEvent (.tick s.stop) s)) := by
  unfold gscTick at h
  split at h <;> cases h
  · exact .inr ⟨‹_›, rfl⟩
  · exact .inl ⟨‹_›, rfl⟩

/-- The GSC waits for a transaction in every phase but two. -/
theorem gscRequest_none_iff (s : State) : gscRequest s = none ↔ s.gscPhase = .idle ∨ s.gscPhase = .smCool := by
  unfold gscRequest
  cases h : s.gscPhase <;> simp

/-- The head of GS_START_APP's loop. -/
theorem startAppLoop_cases (s : State) :
    (s.maxTries ≠ 0#24 ∧ s.tries = s.maxTries ∧
      startAppLoop s = complete .gsc .appStartTimeout (.appStartTimeout s.tries)
        (setCtl .appNotStarted s)) ∨
    (¬(s.maxTries ≠ 0#24 ∧ s.tries = s.maxTries) ∧
      startAppLoop s = toPhase .saStatus (countTry s)) := by
  unfold startAppLoop
  split
  · exact .inl ⟨‹_ ∧ _›.1, ‹_ ∧ _›.2, rfl⟩
  · exact .inr ⟨‹_›, rfl⟩

/-- What a cooldown tick does. -/
theorem cooldownTick_cases (s : State) :
    (s.stop = true ∧ cooldownTick s = complete .gsc .cancelled (.cancelled s.coolCnt) (setCoolCnt 0#10 s)) ∨
    (s.stop = false ∧ (s.coolCnt + 1#10).toNat < Config.cooldownTicks ∧
      cooldownTick s = setCoolCnt (s.coolCnt + 1#10) s) ∨
    (s.stop = false ∧ ¬(s.coolCnt + 1#10).toNat < Config.cooldownTicks ∧
      cooldownTick s = toPhase .smTgtWr (setCoolCnt 0#10 s)) := by
  unfold cooldownTick
  split
  · exact .inl ⟨‹_›, rfl⟩
  · split
    · exact .inr (.inl ⟨Bool.eq_false_iff.mpr ‹_›, ‹_›, rfl⟩)
    · exact .inr (.inr ⟨Bool.eq_false_iff.mpr ‹_›, ‹_›, rfl⟩)

/-- The continuation that a fitting answer reaches, phase by phase. -/
theorem gscContinue_cases {a : I2CAnswer} {s : State} {req : I2CRequest} (hr : gscRequest s = some req)
    (hf : answerFits req a = true) (ha : a ≠ .fail) :
    (∃ sb, s.gscPhase = .saStatus ∧ a = .byte sb ∧ gscContinue a s = startAppAfterStatus sb s) ∨
    (∃ eb, s.gscPhase = .saErr ∧ a = .byte eb ∧ gscContinue a s = startAppAfterError eb s) ∨
    (s.gscPhase = .saStart ∧ a = .ack ∧ gscContinue a s = startAppAfterStart s) ∨
    (∃ mb, s.gscPhase = .smRead ∧ a = .byte mb ∧ gscContinue a s = switchModeAfterRead mb s) ∨
    (s.gscPhase = .smIdleWr ∧ a = .ack ∧ gscContinue a s = switchModeAfterIdle s) ∨
    (s.gscPhase = .smTgtWr ∧ a = .ack ∧ gscContinue a s = switchModeAfterTarget s) ∨
    (∃ sb, s.gscPhase = .poStatus ∧ a = .byte sb ∧ gscContinue a s = pollAfterStatus sb s) ∨
    (∃ eb, s.gscPhase = .poErr ∧ a = .byte eb ∧ gscContinue a s = pollAfterError eb s) ∨
    (∃ bs, s.gscPhase = .poResult ∧ a = .block bs ∧ gscContinue a s = pollAfterResult bs s) ∨
    (s.gscPhase = .blWr ∧ a = .ack ∧ gscContinue a s = loadAfterWrite s) ∨
    (∃ w, s.gscPhase = .blRd ∧ a = .word w ∧ gscContinue a s = saveAfterRead w s) ∨
    (s.gscPhase = .rsWr ∧ a = .ack ∧ gscContinue a s = swResetAfterWrite s) ∨
    (∃ v, s.gscPhase = .idRd ∧ a = .byte v ∧ gscContinue a s = checkHwIdAfterRead v s) := by
  unfold gscRequest at hr
  cases hp : s.gscPhase <;> rw [hp] at hr <;> cases hr <;> cases a <;> first
    | exact absurd rfl ha
    | exact absurd hf Bool.false_ne_true
    | simp [gscContinue, hp, onByte, onBlock, onWord, onAck]

@[simp] theorem fillInc_toNat (f : BitVec 6) : (fillInc f).toNat = min (f.toNat + 1) 32 := by simp [fillInc]

@[simp] theorem satInc_toNat {n : Nat} (v : BitVec n) : (satInc v).toNat = min (v.toNat + 1) (2 ^ n - 1) := by
  have := v.isLt
  simp only [satInc, BitVec.toNat_ofNat]
  exact Nat.mod_eq_of_lt (by omega)

/-- The bytes of a pair. -/
theorem pair_bytes (b0 b1 : Byte) : (pair b0 b1).extractLsb' 8 8 = b0 ∧ (pair b0 b1).extractLsb' 0 8 = b1 := by
  have hp (j : Nat) : (pair b0 b1).getLsbD j = if j < 8 then b1.getLsbD j else b0.getLsbD (j - 8) :=
    BitVec.getLsbD_append (x := b0) (y := b1)
  constructor <;> apply BitVec.eq_of_getLsbD_eq <;> intro k hk <;> rw [BitVec.getLsbD_extractLsb', hp] <;> simp [hk]

/-- Whatever `WORD_ORDER` is, a word read and later written back reaches the device as the same two bytes in the same
order (20_memory.md R67; assumption 11). -/
theorem wordToWire_wordFromWire (o : Config.ByteOrder) (p : Byte × Byte) : wordToWire o (wordFromWire o p) = p := by
  cases o <;> simp [wordToWire, wordFromWire, pair_bytes]

/-- Every answer `fail` fits, and no other answer fits two kinds of request. -/
@[simp] theorem answerFits_fail (req : I2CRequest) : answerFits req .fail = true := by cases req <;> rfl

end Sys2Proof.Machine
end

