-- ==== Sys2Proof/Laws/PerInstr.lean ====
section
/-! SUPPORT. Facts about each command as syntax, one lemma a constructor: the low byte of its word is its opcode, which
is the part of the encoding by which the decoder finds its row (30_encoding.md R80, R84). -/

namespace Sys2Proof.Laws.OpcodeByte

open Sys2Proof

/-- `CMD[7:0]` of the command's word is the opcode of its row. -/
def Statement (i : Instr) : Prop := opcodeField (encode i) = i.op.opcode

/-- The low part of a concatenation. -/
theorem low_append {n : Nat} (x : BitVec n) (y : Byte) : (x ++ y).extractLsb' 0 8 = y := by
  apply BitVec.eq_of_getLsbD_eq
  intro k hk
  simp [BitVec.getLsbD_append, hk]

theorem cdcDecodeError (b : Byte) : Statement (.cdcDecodeError b) := low_append _ _
theorem cdcDecodeStatus (b : Byte) : Statement (.cdcDecodeStatus b) := low_append _ _
theorem cdcDecodeMode (b : Byte) : Statement (.cdcDecodeMode b) := low_append _ _
theorem cdcEncodeMode (dm : BitVec 3) (it th : Bool) : Statement (.cdcEncodeMode dm it th) := low_append _ _
theorem cdcDecodeRaw (w : U16) : Statement (.cdcDecodeRaw w) := low_append _ _
theorem cdcDecodeReading (len : BitVec 6) : Statement (.cdcDecodeReading len) := low_append _ _
theorem cdcDecodeFrameValues (len : BitVec 6) : Statement (.cdcDecodeFrameValues len) := low_append _ _
theorem cdcCheckFrame (len : BitVec 6) : Statement (.cdcCheckFrame len) := low_append _ _
theorem fsPush (b : Byte) : Statement (.fsPush b) := low_append _ _
theorem fsIsStalled (n : BitVec 24) : Statement (.fsIsStalled n) := low_append _ _
theorem fsReset : Statement .fsReset := low_append _ _
theorem prNextReading (n : BitVec 24) : Statement (.prNextReading n) := low_append _ _
theorem gsStartApp (n : BitVec 24) : Statement (.gsStartApp n) := low_append _ _
theorem gsSwitchMode (t : Byte) : Statement (.gsSwitchMode t) := low_append _ _
theorem gsPollOnce : Statement .gsPollOnce := low_append _ _
theorem gsLoadBaseline : Statement .gsLoadBaseline := low_append _ _
theorem gsSaveBaseline : Statement .gsSaveBaseline := low_append _ _
theorem gsSwReset : Statement .gsSwReset := low_append _ _
theorem gsCheckHwId : Statement .gsCheckHwId := low_append _ _

end Sys2Proof.Laws.OpcodeByte
end

