-- ==== Sys2Proof/Laws/Step.lean ====
section
/-! SUPPORT. What a command, an input and a step can do, said once, and how a run on a list of inputs unfolds. -/

namespace Sys2Proof.Machine

open Sys2Proof

/-- What a command can do when it answers a next state: a CDC command completes; an FSU or GSC command finds its unit
idle and is accepted and started. -/
theorem exec_next {i : Instr} {s t : State} (h : exec i s = .next t) :
    (opUnit i.op = .cdc ∧ ∃ c p, (c = .ok ∨ c = .badLength) ∧ t = complete .cdc c p s) ∨
    (s.fsuBusy = false ∧
      ((∃ b, i = .fsPush b ∧ t = pushEnd (pushByte b (acceptFsu s))) ∨
       (∃ n, i = .fsIsStalled n ∧ t = complete .fsu .ok (.stalled (isStalled n (acceptFsu s))) (acceptFsu s)) ∨
       (i = .fsReset ∧ t = complete .fsu .ok .empty (clearSync (acceptFsu s))) ∨
       (∃ n, i = .prNextReading n ∧ t = waitByte n (acceptFsu s)))) ∨
    (s.gscBusy = false ∧
      ((∃ n, i = .gsStartApp n ∧ t = startAppLoop (initTries n (acceptGsc s))) ∨
       (∃ b, i = .gsSwitchMode b ∧
          t = toPhase .smRead (initSwitch (operandFT b) (acceptGsc s))) ∨
       (i = .gsPollOnce ∧ t = toPhase .poStatus (acceptGsc s)) ∨
       (i = .gsLoadBaseline ∧ s.hist = [] ∧ t = complete .gsc .ok (.loadInfo ⟨false, none⟩) (acceptGsc s)) ∨
       (i = .gsLoadBaseline ∧ s.hist ≠ [] ∧ t = toPhase .blWr (acceptGsc s)) ∨
       (i = .gsSaveBaseline ∧ t = toPhase .blRd (acceptGsc s)) ∨
       (i = .gsSwReset ∧ t = toPhase .rsWr (acceptGsc s)) ∨
       (i = .gsCheckHwId ∧ t = toPhase .idRd (acceptGsc s)))) := by
  cases i with
  | cdcDecodeError b => cases h; exact .inl ⟨rfl, _, _, .inl rfl, rfl⟩
  | cdcDecodeStatus b => cases h; exact .inl ⟨rfl, _, _, .inl rfl, rfl⟩
  | cdcDecodeMode b => cases h; exact .inl ⟨rfl, _, _, .inl rfl, rfl⟩
  | cdcEncodeMode dm it th => cases h; exact .inl ⟨rfl, _, _, .inl rfl, rfl⟩
  | cdcDecodeRaw w => cases h; exact .inl ⟨rfl, _, _, .inl rfl, rfl⟩
  | cdcDecodeReading len =>
    simp only [exec, execCdcDecodeReading] at h
    split at h <;> cases h
    · exact .inl ⟨rfl, _, _, .inl rfl, rfl⟩
    · exact .inl ⟨rfl, _, _, .inr rfl, rfl⟩
  | cdcDecodeFrameValues len =>
    simp only [exec, execCdcDecodeFrameValues] at h
    split at h <;> cases h
    · exact .inl ⟨rfl, _, _, .inl rfl, rfl⟩
    · exact .inl ⟨rfl, _, _, .inr rfl, rfl⟩
  | cdcCheckFrame len =>
    simp only [exec, execCdcCheckFrame] at h
    split at h <;> cases h
    · exact .inl ⟨rfl, _, _, .inl rfl, rfl⟩
    · exact .inl ⟨rfl, _, _, .inr rfl, rfl⟩
  | fsPush b =>
    unfold exec execFsPush at h
    obtain ⟨hb, rfl⟩ := startFsu_next h
    exact .inr (.inl ⟨hb, .inl ⟨b, rfl, rfl⟩⟩)
  | fsIsStalled n =>
    unfold exec execFsIsStalled at h
    obtain ⟨hb, rfl⟩ := startFsu_next h
    exact .inr (.inl ⟨hb, .inr (.inl ⟨n, rfl, rfl⟩)⟩)
  | fsReset =>
    unfold exec execFsReset at h
    obtain ⟨hb, rfl⟩ := startFsu_next h
    exact .inr (.inl ⟨hb, .inr (.inr (.inl ⟨rfl, rfl⟩))⟩)
  | prNextReading n =>
    unfold exec execPrNextReading at h
    obtain ⟨hb, rfl⟩ := startFsu_next h
    exact .inr (.inl ⟨hb, .inr (.inr (.inr ⟨n, rfl, rfl⟩))⟩)
  | gsStartApp n =>
    unfold exec execGsStartApp at h
    obtain ⟨hb, rfl⟩ := startGsc_next h
    exact .inr (.inr ⟨hb, .inl ⟨n, rfl, rfl⟩⟩)
  | gsSwitchMode b =>
    unfold exec execGsSwitchMode at h
    obtain ⟨hb, rfl⟩ := startGsc_next h
    exact .inr (.inr ⟨hb, .inr (.inl ⟨b, rfl, rfl⟩)⟩)
  | gsPollOnce =>
    unfold exec execGsPollOnce at h
    obtain ⟨hb, rfl⟩ := startGsc_next h
    exact .inr (.inr ⟨hb, .inr (.inr (.inl ⟨rfl, rfl⟩))⟩)
  | gsLoadBaseline =>
    unfold exec execGsLoadBaseline at h
    obtain ⟨hb, rfl⟩ := startGsc_next h
    refine .inr (.inr ⟨hb, .inr (.inr (.inr ?_))⟩)
    by_cases hh : s.hist = []
    · exact .inl ⟨rfl, hh, by simp [hh]⟩
    · exact .inr (.inl ⟨rfl, hh, by simp [hh]⟩)
  | gsSaveBaseline =>
    unfold exec execGsSaveBaseline at h
    obtain ⟨hb, rfl⟩ := startGsc_next h
    exact .inr (.inr ⟨hb, .inr (.inr (.inr (.inr (.inr (.inl ⟨rfl, rfl⟩)))))⟩)
  | gsSwReset =>
    unfold exec execGsSwReset at h
    obtain ⟨hb, rfl⟩ := startGsc_next h
    exact .inr (.inr ⟨hb, .inr (.inr (.inr (.inr (.inr (.inr (.inl ⟨rfl, rfl⟩))))))⟩)
  | gsCheckHwId =>
    unfold exec execGsCheckHwId at h
    obtain ⟨hb, rfl⟩ := startGsc_next h
    exact .inr (.inr ⟨hb, .inr (.inr (.inr (.inr (.inr (.inr (.inr ⟨rfl, rfl⟩))))))⟩)

/-- What running the latch can do. -/
theorem runCmd_next {s t : State} (h : runCmd s = .next t) :
    (s.cmd = none ∧ t = s) ∨
    (∃ w i, s.cmd = some w ∧ decode w = .ok i ∧ exec i (takeCmd s) = .next t) ∨
    (∃ w e, s.cmd = some w ∧ decode w = .error e ∧ t = complete .cdc .illegalOp (.illegalOp w) (takeCmd s)) := by
  unfold runCmd at h
  split at h
  · cases h; exact .inl ⟨‹_›, rfl⟩
  · split at h
    · exact .inr (.inl ⟨_, _, ‹_›, ‹_›, h⟩)
    · cases h; exact .inr (.inr ⟨_, _, ‹_›, ‹_›, rfl⟩)

/-- What one input can do. -/
theorem deliver_next {e : Input} {s t : State} (h : deliver e s = .next t) :
    (∃ w i, e = .writeCmd w ∧ decode w = .ok i ∧ exec i (takeCmd s) = .next t) ∨
    (∃ w err, e = .writeCmd w ∧ decode w = .error err ∧
      t = complete .cdc .illegalOp (.illegalOp w) (takeCmd s)) ∨
    (∃ i b, e = .writeDbuf i b ∧ t = hostWriteDbuf i b s) ∨
    (∃ v, e = .driveStop v ∧ t = hostDriveStop v s) ∨
    (∃ a, e = .i2c a ∧ gscAnswer a s = .next t) ∨
    (∃ a, e = .uart a ∧ fsuAnswer a s = .next t) ∨
    (e = .tick ∧ gscTick s = .next t) ∨
    (e = .rst ∧ t = blockReset s) := by
  cases e with
  | writeCmd w =>
    rcases runCmd_next (s := hostWriteCmd w s) h with ⟨hc, -⟩ | ⟨w', i, hc, hd, hx⟩ | ⟨w', err, hc, hd, hx⟩
    · cases hc
    · cases hc; exact .inl ⟨w, i, rfl, hd, hx⟩
    · cases hc; exact .inr (.inl ⟨w, err, rfl, hd, hx⟩)
  | writeDbuf i b => cases h; exact .inr (.inr (.inl ⟨i, b, rfl, rfl⟩))
  | driveStop v => cases h; exact .inr (.inr (.inr (.inl ⟨v, rfl, rfl⟩)))
  | i2c a => exact .inr (.inr (.inr (.inr (.inl ⟨a, rfl, h⟩))))
  | uart a => exact .inr (.inr (.inr (.inr (.inr (.inl ⟨a, rfl, h⟩)))))
  | tick => exact .inr (.inr (.inr (.inr (.inr (.inr (.inl ⟨rfl, h⟩))))))
  | rst => cases h; exact .inr (.inr (.inr (.inr (.inr (.inr (.inr ⟨rfl, rfl⟩))))))

/-- What one step can do. -/
theorem step_next {s t : State} (h : step s = .next t) :
    1 ≤ s.calCap ∧
    ((∃ w, s.cmd = some w ∧ runCmd s = .next t) ∨
     (s.cmd = none ∧ s.inputs = [] ∧ t = s) ∨
     (∃ e rest, s.cmd = none ∧ s.inputs = e :: rest ∧ deliver e (setInputs rest s) = .next t)) := by
  unfold step at h
  split at h
  · cases h
  · refine ⟨Nat.one_le_iff_ne_zero.mpr ‹_›, ?_⟩
    split at h
    · exact .inl ⟨_, ‹_›, h⟩
    · split at h
      · cases h; exact .inr (.inl ⟨‹_›, ‹_›, rfl⟩)
      · exact .inr (.inr ⟨_, _, ‹_›, ‹_›, h⟩)

/-- Between commands, a step on an input is its delivery. -/
theorem step_cons {s : State} (hr : Ready s) (e : Input) (rest : List Input) :
    step (setInputs (e :: rest) s) = deliver e (setInputs rest s) := by
  obtain ⟨hc, hp⟩ := hr
  unfold step
  rw [if_neg (show ¬(setInputs (e :: rest) s).calCap = 0 from Nat.ne_of_gt hp)]
  rw [show (setInputs (e :: rest) s).cmd = none from hc]
  rfl

/-- Between commands, a step on a given next input is its delivery. -/
theorem step_withInput {s : State} (hr : Ready s) (e : Input) : step (s.withInput e) = deliver e s :=
  step_cons hr e s.inputs

theorem run_succ {s t : State} (h : step s = .next t) (k : Nat) :
    Host.Core.run Sys2Proof.core (k + 1) s = Host.Core.run Sys2Proof.core k t := by
  have h' : Sys2Proof.core.step s = .next t := h
  simp only [Host.Core.run, h']

theorem runInputs_nil (s : State) : runInputs s [] = .next (setInputs [] s) := rfl

/-- The first input of a run, when its step answers a state that keeps the inputs to come. -/
theorem runInputs_cons {s t : State} (hr : Ready s) {e : Input} {es : List Input}
    (h : deliver e (setInputs es s) = .next t) (ht : t.inputs = es) :
    runInputs s (e :: es) = runInputs t es := by
  have hs : setInputs es t = t := by rw [← ht]; rfl
  unfold runInputs
  rw [List.length_cons, run_succ ((step_cons hr e es).trans h), hs]

end Sys2Proof.Machine
end

