-- ==== Sys2Proof/Laws/Runs.lean ====
section
/-! SUPPORT. What delivering an input keeps, that it does not look at the inputs to come, and so how a run on a list of
inputs is cut into runs on its parts. -/

namespace Sys2Proof.Machine

open Sys2Proof

/-- What only the outside or nothing writes: the inputs still to come, the strap and the latch. -/
structure Keeps (s t : State) : Prop where
  inputs : t.inputs = s.inputs
  calCap : t.calCap = s.calCap
  cmd : t.cmd = s.cmd

@[simp] theorem complete_keeps (u : CmdUnit) (c : ResCode) (p : Payload) (s : State) : Keeps s (complete u c p s) := by
  cases u <;> exact ⟨rfl, rfl, rfl⟩

theorem Keeps.trans {s t u : State} (h : Keeps s t) (h' : Keeps t u) : Keeps s u :=
  ⟨h'.inputs.trans h.inputs, h'.calCap.trans h.calCap, h'.cmd.trans h.cmd⟩

theorem startAppLoop_keeps (s : State) : Keeps s (startAppLoop s) := by
  rcases startAppLoop_cases s with ⟨-, -, h⟩ | ⟨-, h⟩ <;> rw [h] <;> exact ⟨rfl, rfl, rfl⟩

theorem pushByte_keeps (b : Byte) (s : State) : Keeps s (pushByte b s).1 := by
  rcases pushByte_cases b s with ⟨-, h⟩ | ⟨-, h⟩ <;> rw [h] <;> exact ⟨rfl, rfl, rfl⟩

theorem pushEnd_keeps (b : Byte) (s : State) : Keeps s (pushEnd (pushByte b s)) := by
  have hk (c : BitVec 32) : Keeps s (setSince c (shiftIn b s)) := ⟨rfl, rfl, rfl⟩
  rcases pushByte_cases b s with ⟨-, h⟩ | ⟨-, h⟩ <;> rw [h] <;> exact (hk _).trans (complete_keeps ..)

theorem exec_keeps {i : Instr} {s t : State} (h : exec i s = .next t) : Keeps s t := by
  rcases exec_next h with ⟨-, c, p, -, rfl⟩ | ⟨-, h⟩ | ⟨-, h⟩
  · exact complete_keeps ..
  · rcases h with ⟨b, -, rfl⟩ | ⟨n, -, rfl⟩ | ⟨-, rfl⟩ | ⟨n, -, rfl⟩
    · exact (Keeps.mk rfl rfl rfl : Keeps s (acceptFsu s)).trans (pushEnd_keeps b _)
    all_goals exact ⟨rfl, rfl, rfl⟩
  · rcases h with ⟨n, -, rfl⟩ | h
    · exact (Keeps.mk rfl rfl rfl : Keeps s (initTries n (acceptGsc s))).trans (startAppLoop_keeps _)
    · rcases h with ⟨_, -, rfl⟩ | ⟨-, rfl⟩ | ⟨-, -, rfl⟩ | ⟨-, -, rfl⟩ | ⟨-, rfl⟩ | ⟨-, rfl⟩ | ⟨-, rfl⟩ <;>
        exact ⟨rfl, rfl, rfl⟩

theorem startAppAfterStatus_keeps (sb : Byte) (s : State) : Keeps s (startAppAfterStatus sb s) := by
  unfold startAppAfterStatus
  split
  · exact ⟨rfl, rfl, rfl⟩
  · split
    · exact ⟨rfl, rfl, rfl⟩
    · split <;> exact ⟨rfl, rfl, rfl⟩

theorem switchModeAfterRead_keeps (mb : Byte) (s : State) : Keeps s (switchModeAfterRead mb s) := by
  unfold switchModeAfterRead
  split
  · exact ⟨rfl, rfl, rfl⟩
  · split <;> exact ⟨rfl, rfl, rfl⟩

theorem pollAfterStatus_keeps (sb : Byte) (s : State) : Keeps s (pollAfterStatus sb s) := by
  unfold pollAfterStatus
  split
  · exact ⟨rfl, rfl, rfl⟩
  · split <;> exact ⟨rfl, rfl, rfl⟩

theorem startAppAfterError_keeps (eb : Byte) (s : State) : Keeps s (startAppAfterError eb s) :=
  (Keeps.mk rfl rfl rfl : Keeps s (logEvent (.deviceFault (decodeError eb)) s)).trans (startAppLoop_keeps _)

theorem gscContinue_keeps {a : I2CAnswer} {s : State} {req : I2CRequest} (hr : gscRequest s = some req)
    (hf : answerFits req a = true) (ha : a ≠ .fail) : Keeps s (gscContinue a s) := by
  rcases gscContinue_cases hr hf ha with ⟨b, -, -, h⟩ | ⟨b, -, -, h⟩ | ⟨-, -, h⟩ | ⟨b, -, -, h⟩ | ⟨-, -, h⟩ |
    ⟨-, -, h⟩ | ⟨b, -, -, h⟩ | ⟨b, -, -, h⟩ | ⟨b, -, -, h⟩ | ⟨-, -, h⟩ | ⟨w, -, -, h⟩ | ⟨-, -, h⟩ | ⟨b, -, -, h⟩ <;>
    rw [h]
  · exact startAppAfterStatus_keeps b s
  · exact startAppAfterError_keeps b s
  · exact startAppLoop_keeps s
  · exact switchModeAfterRead_keeps b s
  · exact ⟨rfl, rfl, rfl⟩
  · exact ⟨rfl, rfl, rfl⟩
  · exact pollAfterStatus_keeps b s
  all_goals exact ⟨rfl, rfl, rfl⟩

theorem gscAnswer_keeps {a : I2CAnswer} {s t : State} (h : gscAnswer a s = .next t) : Keeps s t := by
  rcases gscAnswer_next h with ⟨-, rfl⟩ | ⟨req, hr, hf, ⟨-, rfl⟩ | ⟨ha, rfl⟩⟩
  · exact ⟨rfl, rfl, rfl⟩
  · exact ⟨rfl, rfl, rfl⟩
  · exact (Keeps.mk rfl rfl rfl : Keeps s (logEvent (.tx .gsc req a) s)).trans
      (gscContinue_keeps (s := logEvent (.tx .gsc req a) s) hr hf ha)

theorem fsuAnswer_keeps {a : UartAnswer} {s t : State} (h : fsuAnswer a s = .next t) : Keeps s t := by
  rcases fsuAnswer_next h with ⟨-, rfl⟩ | ⟨-, -, rfl⟩ | ⟨b, -, -, rfl⟩
  · exact ⟨rfl, rfl, rfl⟩
  · exact ⟨rfl, rfl, rfl⟩
  · have hk (c : BitVec 32) : Keeps s (setSince c (shiftIn b (logEvent (.rx (.byte b)) s))) := ⟨rfl, rfl, rfl⟩
    rcases prTests_cases b (logEvent (.rx (.byte b)) s) with ⟨-, h⟩ | ⟨-, -, h⟩ | ⟨-, -, h⟩ <;> rw [h]
    · exact (hk _).trans (complete_keeps ..)
    · exact (hk _).trans (complete_keeps ..)
    · exact hk _

theorem gscTick_keeps {s t : State} (h : gscTick s = .next t) : Keeps s t := by
  rcases gscTick_next h with ⟨-, rfl⟩ | ⟨-, rfl⟩
  · exact ⟨rfl, rfl, rfl⟩
  · rcases cooldownTick_cases (logEvent (.tick s.stop) s) with ⟨-, h⟩ | ⟨-, -, h⟩ | ⟨-, -, h⟩ <;> rw [h] <;>
      exact ⟨rfl, rfl, rfl⟩

/-- Delivering one input keeps the inputs to come and the strap, and leaves the latch empty. -/
theorem deliver_keeps {e : Input} {s t : State} (hc : s.cmd = none) (h : deliver e s = .next t) : Keeps s t := by
  rcases deliver_next h with ⟨w, i, -, -, hx⟩ | ⟨w, err, -, -, rfl⟩ | ⟨i, b, -, rfl⟩ | ⟨v, -, rfl⟩ | ⟨a, -, hx⟩ |
    ⟨a, -, hx⟩ | ⟨-, hx⟩ | ⟨-, rfl⟩
  · exact (Keeps.mk rfl rfl hc.symm : Keeps s (takeCmd s)).trans (exec_keeps hx)
  · exact ⟨rfl, rfl, hc.symm⟩
  · exact ⟨rfl, rfl, rfl⟩
  · exact ⟨rfl, rfl, rfl⟩
  · exact gscAnswer_keeps hx
  · exact fsuAnswer_keeps hx
  · exact gscTick_keeps hx
  · exact ⟨rfl, rfl, hc.symm⟩

/-- A run on a longer list of inputs is a step and a run on the rest. -/
theorem runInputs_cons_deliver {s t : State} (hr : Ready s) {e : Input} {es : List Input}
    (h : deliver e (setInputs es s) = .next t) : Ready t ∧ runInputs s (e :: es) = runInputs t es := by
  have hk := deliver_keeps (s := setInputs es s) hr.1 h
  exact ⟨⟨hk.cmd.trans hr.1, by rw [hk.calCap]; exact hr.2⟩, runInputs_cons hr h hk.inputs⟩


/-- The outcome with other inputs to come. -/
def outWith (es : List Input) : Host.Outcome State Fault Refusal → Host.Outcome State Fault Refusal
  | .next s => .next (setInputs es s)
  | .fault r => .fault r
  | .refused r => .refused r

theorem pushByte_setInputs (b : Byte) (es : List Input) (s : State) :
    pushByte b (setInputs es s) = (setInputs es (pushByte b s).1, (pushByte b s).2) := by
  have hv : windowValid (shiftIn b (setInputs es s)) = windowValid (shiftIn b s) := rfl
  unfold pushByte
  rw [hv]
  split <;> rfl

/-- An `if` on a condition that the inputs to come do not touch. -/
theorem setInputs_ite (es : List Input) (p : Prop) [Decidable p] (s t : State) :
    (if p then setInputs es s else setInputs es t) = setInputs es (if p then s else t) := by
  by_cases h : p <;> simp only [h, if_true, if_false]

theorem startAppLoop_setInputs (es : List Input) (s : State) :
    startAppLoop (setInputs es s) = setInputs es (startAppLoop s) := by
  unfold startAppLoop
  rw [← setInputs_ite]; rfl

theorem startFsu_setInputs {op : State → State} (es : List Input) (s : State)
    (h : ∀ t, op (setInputs es t) = setInputs es (op t)) :
    startFsu op (setInputs es s) = outWith es (startFsu op s) := by
  cases hb : s.fsuBusy
  · rw [startFsu_idle hb, startFsu_idle (show (setInputs es s).fsuBusy = false from hb)]
    exact congrArg Host.Outcome.next (h (acceptFsu s))
  · rw [startFsu_busy hb, startFsu_busy (show (setInputs es s).fsuBusy = true from hb)]; rfl

theorem startGsc_setInputs {op : State → State} (es : List Input) (s : State)
    (h : ∀ t, op (setInputs es t) = setInputs es (op t)) :
    startGsc op (setInputs es s) = outWith es (startGsc op s) := by
  cases hb : s.gscBusy
  · rw [startGsc_idle hb, startGsc_idle (show (setInputs es s).gscBusy = false from hb)]
    exact congrArg Host.Outcome.next (h (acceptGsc s))
  · rw [startGsc_busy hb, startGsc_busy (show (setInputs es s).gscBusy = true from hb)]; rfl

theorem exec_setInputs (i : Instr) (es : List Input) (s : State) :
    exec i (setInputs es s) = outWith es (exec i s) := by
  cases i with
  | cdcDecodeReading len =>
    simp only [exec, execCdcDecodeReading]
    by_cases h : len.toNat ∈ readingLengths <;> simp only [h, if_true, if_false] <;> rfl
  | cdcDecodeFrameValues len =>
    simp only [exec, execCdcDecodeFrameValues]
    by_cases h : len = 32#6 <;> simp only [h, if_true, if_false] <;> rfl
  | cdcCheckFrame len =>
    simp only [exec, execCdcCheckFrame]
    by_cases h : len = 32#6 <;> simp only [h, if_true, if_false] <;> rfl
  | fsPush b =>
    unfold exec execFsPush
    refine startFsu_setInputs es s fun t => ?_
    simp only [pushByte_setInputs]
    rcases pushByte b t with ⟨u, _ | F⟩ <;> rfl
  | gsStartApp n =>
    unfold exec execGsStartApp
    exact startGsc_setInputs es s fun t => startAppLoop_setInputs es (initTries n t)
  | gsLoadBaseline =>
    unfold exec execGsLoadBaseline
    refine startGsc_setInputs es s fun t => ?_
    by_cases h : t.hist = [] <;> simp only [setInputs_hist, h, if_true, if_false] <;> rfl
  | fsIsStalled n => unfold exec execFsIsStalled; exact startFsu_setInputs es s fun _ => rfl
  | fsReset => unfold exec execFsReset; exact startFsu_setInputs es s fun _ => rfl
  | prNextReading n => unfold exec execPrNextReading; exact startFsu_setInputs es s fun _ => rfl
  | gsSwitchMode t => unfold exec execGsSwitchMode; exact startGsc_setInputs es s fun _ => rfl
  | gsPollOnce => unfold exec execGsPollOnce; exact startGsc_setInputs es s fun _ => rfl
  | gsSaveBaseline => unfold exec execGsSaveBaseline; exact startGsc_setInputs es s fun _ => rfl
  | gsSwReset => unfold exec execGsSwReset; exact startGsc_setInputs es s fun _ => rfl
  | gsCheckHwId => unfold exec execGsCheckHwId; exact startGsc_setInputs es s fun _ => rfl
  | _ => rfl

theorem startAppAfterStatus_setInputs (sb : Byte) (es : List Input) (s : State) :
    startAppAfterStatus sb (setInputs es s) = setInputs es (startAppAfterStatus sb s) := by
  unfold startAppAfterStatus
  rw [← setInputs_ite, ← setInputs_ite, ← setInputs_ite]; rfl

theorem switchModeAfterRead_setInputs (mb : Byte) (es : List Input) (s : State) :
    switchModeAfterRead mb (setInputs es s) = setInputs es (switchModeAfterRead mb s) := by
  unfold switchModeAfterRead
  rw [← setInputs_ite, ← setInputs_ite]; rfl

theorem pollAfterStatus_setInputs (sb : Byte) (es : List Input) (s : State) :
    pollAfterStatus sb (setInputs es s) = setInputs es (pollAfterStatus sb s) := by
  unfold pollAfterStatus
  rw [← setInputs_ite, ← setInputs_ite]; rfl

theorem startAppAfterError_setInputs (eb : Byte) (es : List Input) (s : State) :
    startAppAfterError eb (setInputs es s) = setInputs es (startAppAfterError eb s) :=
  startAppLoop_setInputs es (logEvent (.deviceFault (decodeError eb)) s)

theorem gscContinue_setInputs (a : I2CAnswer) (es : List Input) (s : State) :
    gscContinue a (setInputs es s) = setInputs es (gscContinue a s) := by
  have hp : (setInputs es s).gscPhase = s.gscPhase := rfl
  unfold gscContinue
  rw [hp]
  cases s.gscPhase <;> cases a <;> first
    | rfl
    | exact startAppAfterStatus_setInputs _ es s
    | exact startAppLoop_setInputs es s
    | exact startAppAfterError_setInputs _ es s
    | exact switchModeAfterRead_setInputs _ es s
    | exact pollAfterStatus_setInputs _ es s

theorem gscAnswer_setInputs (a : I2CAnswer) (es : List Input) (s : State) :
    gscAnswer a (setInputs es s) = outWith es (gscAnswer a s) := by
  unfold gscAnswer
  rw [show gscRequest (setInputs es s) = gscRequest s from rfl]
  cases gscRequest s with
  | none => rfl
  | some req =>
    by_cases hf : answerFits req a = true <;> by_cases ha : a = .fail <;>
      simp only [hf, ha, if_true, if_false] <;> first
      | rfl
      | exact congrArg Host.Outcome.next (gscContinue_setInputs a es (logEvent _ s))

theorem prTests_setInputs (es : List Input) (t : State) (o : Option Frame) :
    prTests (setInputs es t, o) = setInputs es (prTests (t, o)) := by
  cases o with
  | none => unfold prTests; rw [← setInputs_ite]; rfl
  | some F => rfl

theorem fsuAnswer_setInputs (a : UartAnswer) (es : List Input) (s : State) :
    fsuAnswer a (setInputs es s) = outWith es (fsuAnswer a s) := by
  have hp : (setInputs es s).fsuPhase = s.fsuPhase := rfl
  unfold fsuAnswer
  rw [hp]
  cases s.fsuPhase with
  | idle => rfl
  | prByte =>
    cases a with
    | fail => rfl
    | byte b =>
      have h := pushByte_setInputs b es (logEvent (.rx (.byte b)) s)
      exact congrArg Host.Outcome.next ((congrArg prTests h).trans (prTests_setInputs es _ _))

theorem gscTick_setInputs (es : List Input) (s : State) : gscTick (setInputs es s) = outWith es (gscTick s) := by
  have h : ∀ t, cooldownTick (setInputs es t) = setInputs es (cooldownTick t) := fun t => by
    unfold cooldownTick; rw [← setInputs_ite, ← setInputs_ite]; rfl
  unfold gscTick
  by_cases hp : s.gscPhase = .smCool
  · rw [if_pos hp, if_pos (show (setInputs es s).gscPhase = .smCool from hp)]
    exact congrArg Host.Outcome.next (h (logEvent (.tick s.stop) s))
  · rw [if_neg hp, if_neg (show ¬(setInputs es s).gscPhase = .smCool from hp)]; rfl

/-- Delivering an input does not look at the inputs to come. -/
theorem deliver_setInputs (e : Input) (es : List Input) (s : State) :
    deliver e (setInputs es s) = outWith es (deliver e s) := by
  cases e with
  | writeCmd w =>
    show runCmd (setInputs es (hostWriteCmd w s)) = outWith es (runCmd (hostWriteCmd w s))
    unfold runCmd
    show (match decode w with
      | .ok i => exec i (setInputs es (takeCmd (hostWriteCmd w s)))
      | .error _ => illegalOp w (setInputs es (takeCmd (hostWriteCmd w s)))) = outWith es (match decode w with
      | .ok i => exec i (takeCmd (hostWriteCmd w s))
      | .error _ => illegalOp w (takeCmd (hostWriteCmd w s)))
    cases decode w with
    | ok i => exact exec_setInputs i es _
    | error _ => rfl
  | i2c a => exact gscAnswer_setInputs a es s
  | uart a => exact fsuAnswer_setInputs a es s
  | tick => exact gscTick_setInputs es s
  | _ => rfl

/-- Two runs, one after the other. -/
theorem runInputs_append {s t : State} (hr : Ready s) {es es' : List Input} (h : runInputs s es = .next t) :
    Ready t ∧ runInputs s (es ++ es') = runInputs t es' := by
  induction es generalizing s with
  | nil => cases h; exact ⟨hr, rfl⟩
  | cons e es ih =>
    have hd := deliver_setInputs e es s
    have hd' := deliver_setInputs e (es ++ es') s
    cases hx : deliver e s with
    | next u =>
      rw [hx] at hd hd'
      obtain ⟨hu, h1⟩ := runInputs_cons_deliver hr hd
      obtain ⟨_, h2⟩ := runInputs_cons_deliver hr hd'
      obtain ⟨ht, h3⟩ := ih hu (h1.symm.trans h)
      exact ⟨ht, h2.trans h3⟩
    | fault r =>
      rw [hx] at hd
      have hs : Sys2Proof.core.step (setInputs (e :: es) s) = .fault r := (step_cons hr e es).trans hd
      simp only [runInputs, List.length_cons, Host.Core.run, hs] at h
      cases h
    | refused r =>
      rw [hx] at hd
      have hs : Sys2Proof.core.step (setInputs (e :: es) s) = .refused r := (step_cons hr e es).trans hd
      simp only [runInputs, List.length_cons, Host.Core.run, hs] at h
      cases h

end Sys2Proof.Machine
end

