-- ==== Sys2Proof/Tests/Slice0.lean ====
section
/-! SUPPORT. The model's own tests. Expected results are the spec's: 30_encoding.md R85 and the vectors of
95_test_vectors.md, whose ids stand above the tests. The last part shows, for every statement with hypotheses, a state
and operands that meet them together, at a boundary value for each clause. -/

namespace Sys2Proof.Tests.Slice0

open Sys2Proof Sys2Proof.Machine

/-! ### Helpers -/

/-- The state after a run on these inputs, if every step answers one. -/
def after (s : State) (es : List Input) : Option State :=
  match runInputs s es with
  | .next t => some t
  | _ => none

/-- Just after reset, with a data buffer. -/
def withDbuf (d : Vector Byte 32) : State := { State.reset with dbuf := d }

/-- The GSC busy in a phase. -/
def gscAt (p : GscPhase) : State :=
  { State.reset with gscBusy := true, gscPhase := p, tries := 1#24, maxTries := 3#24 }

/-- The FSU waiting for a byte, with a stall threshold. -/
def readerAt (n : BitVec 24) : State := { State.reset with fsuBusy := true, fsuPhase := .prByte, prMax := n }

/-- The reference frame `FA` (95_test_vectors.md 2.1). -/
def frameFA : Frame :=
  #v[0x42#8, 0x4D#8, 0x00#8, 0x1C#8, 0x00#8, 0x05#8, 0x00#8, 0x0A#8, 0x00#8, 0x0F#8, 0x00#8, 0x05#8, 0x00#8, 0x0A#8,
     0x00#8, 0x0F#8, 0x01#8, 0x20#8, 0x00#8, 0x64#8, 0x00#8, 0x32#8, 0x00#8, 0x08#8, 0x00#8, 0x02#8, 0x00#8, 0x01#8,
     0x97#8, 0x00#8, 0x02#8, 0x40#8]

/-- The frame `FZ` (95_test_vectors.md 2.1). -/
def frameFZ : Frame :=
  ((((Vector.replicate 32 0x00#8).set 0 0x42#8).set 1 0x4D#8).set 3 0x1C#8).set 31 0xAB#8

/-- 31 bytes of `FA` pushed, the last one missing. -/
def oneByteShort : State :=
  { State.reset with win := frameFA.set 31 0x00#8, wrPtr := 31#5, fill := 31#6, sinceCnt := 31#32 }

/-- The result block of 95_test_vectors.md CDC-R-1 and GSC-PO-1. -/
def resultBlock : Vector Byte 8 := #v[0x01#8, 0x90#8, 0x00#8, 0x2A#8, 0x98#8, 0x00#8, 0xAA#8, 0xAA#8]

/-- That block at the start of the data buffer. -/
def blockInDbuf : State :=
  withDbuf (((((((((Vector.replicate 32 0x00#8).set 0 0x01#8).set 1 0x90#8).set 2 0x00#8).set 3 0x2A#8).set 4
    0x98#8).set 5 0x00#8).set 6 0xAA#8).set 7 0xAA#8)

def noFlags : ErrorFlags := ⟨false, false, false, false, false, false⟩

/-! ### Well-formedness: the one check, with each reserved bit (30_encoding.md R82) -/

theorem test_wellFormed_accepts : (Instr.gsSwitchMode 0x7C#8).wellFormed = true := by decide
theorem test_wellFormed_refuses_t7 : (Instr.gsSwitchMode 0x80#8).wellFormed = false := by decide
theorem test_wellFormed_refuses_t1 : (Instr.gsSwitchMode 0x02#8).wellFormed = false := by decide
theorem test_wellFormed_refuses_t0 : (Instr.gsSwitchMode 0x01#8).wellFormed = false := by decide

/-! ### Decoding: each command's word, written out from CMD[31] down (30_encoding.md R82, R84) -/

theorem test_decode_cdcDecodeError :
    decode 0b00000000_00000000_00000101_00000001#32 = .ok (.cdcDecodeError 0x05#8) := by rfl
theorem test_decode_cdcDecodeStatus :
    decode 0b00000000_00000000_10011000_00000010#32 = .ok (.cdcDecodeStatus 0x98#8) := by rfl
theorem test_decode_cdcDecodeMode :
    decode 0b00000000_00000000_00101100_00000011#32 = .ok (.cdcDecodeMode 0x2C#8) := by rfl
theorem test_decode_cdcEncodeMode :
    decode 0b00000000_00000000_00010100_00000100#32 = .ok (.cdcEncodeMode 4#3 false true) := by rfl
theorem test_decode_cdcDecodeRaw :
    decode 0b00000000_00000100_00000000_00000101#32 = .ok (.cdcDecodeRaw 0x0400#16) := by rfl
theorem test_decode_cdcDecodeReading :
    decode 0b00000000_00000000_00001000_00000110#32 = .ok (.cdcDecodeReading 8#6) := by rfl
theorem test_decode_cdcDecodeFrameValues :
    decode 0b00000000_00000000_00100000_00000111#32 = .ok (.cdcDecodeFrameValues 32#6) := by rfl
theorem test_decode_cdcCheckFrame :
    decode 0b00000000_00000000_00111111_00001000#32 = .ok (.cdcCheckFrame 63#6) := by rfl
theorem test_decode_fsPush :
    decode 0b00000000_00000000_01000010_00010000#32 = .ok (.fsPush 0x42#8) := by rfl
theorem test_decode_fsIsStalled :
    decode 0b00000000_00000000_00101000_00010001#32 = .ok (.fsIsStalled 40#24) := by rfl
theorem test_decode_fsReset :
    decode 0b00000000_00000000_00000000_00010010#32 = .ok .fsReset := by rfl
theorem test_decode_prNextReading :
    decode 0b00000000_00000000_01000000_00010011#32 = .ok (.prNextReading 64#24) := by rfl
theorem test_decode_gsStartApp :
    decode 0b11111111_11111111_11111111_00100000#32 = .ok (.gsStartApp 0xFFFFFF#24) := by rfl
theorem test_decode_gsSwitchMode :
    decode 0b00000000_00000000_00101000_00100001#32 = .ok (.gsSwitchMode 0x28#8) := by rfl
theorem test_decode_gsPollOnce :
    decode 0b00000000_00000000_00000000_00100010#32 = .ok .gsPollOnce := by rfl
theorem test_decode_gsLoadBaseline :
    decode 0b00000000_00000000_00000000_00100011#32 = .ok .gsLoadBaseline := by rfl
theorem test_decode_gsSaveBaseline :
    decode 0b00000000_00000000_00000000_00100100#32 = .ok .gsSaveBaseline := by rfl
theorem test_decode_gsSwReset :
    decode 0b00000000_00000000_00000000_00100101#32 = .ok .gsSwReset := by rfl
theorem test_decode_gsCheckHwId :
    decode 0b00000000_00000000_00000000_00100110#32 = .ok .gsCheckHwId := by rfl

/-- ENC-1 to ENC-3. -/
theorem test_unassigned_opcodes :
    decode 0x00000000#32 = .error .unassignedOpcode ∧ decode 0x000000FF#32 = .error .unassignedOpcode ∧
    decode 0x00000009#32 = .error .unassignedOpcode := ⟨rfl, rfl, rfl⟩

/-- ENC-4 to ENC-10. -/
theorem test_reserved_bits :
    decode 0x01000025#32 = .error .reservedBit ∧ decode 0x00008021#32 = .error .reservedBit ∧
    decode 0x00000121#32 = .error .reservedBit ∧ decode 0x00000221#32 = .error .reservedBit ∧
    decode 0x00004006#32 = .error .reservedBit ∧ decode 0x00002004#32 = .error .reservedBit ∧
    decode 0x00010001#32 = .error .reservedBit := ⟨rfl, rfl, rfl, rfl, rfl, rfl, rfl⟩

/-- 30_encoding.md R85: the encoder, on the example words. -/
theorem test_encode_examples :
    encode (.gsSwitchMode 0x28#8) = 0x00002821#32 ∧ encode (.gsStartApp 3#24) = 0x00000320#32 ∧
    encode (.cdcDecodeRaw 0xAAAA#16) = 0x00AAAA05#32 ∧ encode (.cdcEncodeMode 2#3 true true) = 0x00001A04#32 ∧
    encode (.cdcCheckFrame 32#6) = 0x00002008#32 ∧ encode (.prNextReading 64#24) = 0x00004013#32 := by decide

theorem test_decodeTableWord : decodeTableWord 32 0x00002021 = some (.gsSwitchMode 0x20#8) := by decide
theorem test_decodeTableWord_short : decodeTableWord 8 0x12 = some .fsReset := by decide

/-- The first step after reset runs the word. -/
theorem test_step_from_reset :
    (match step (State.reset.withFetchWord 32 0x00002021) with
      | .next t => t.gscPhase
      | _ => .idle) = .smRead := by decide

/-- ENC-4: an illegal word completes on RES_CDC and starts no transaction. -/
theorem test_illegal_word :
    (after State.reset [.writeCmd 0x01000025#32]).map (fun t => (t.resCdc, t.gscPhase)) =
      some (⟨true, ⟨0x09#8, .illegalOp 0x01000025#32⟩⟩, .idle) := by decide

/-! ### Codec -/

/-- CDC-E-1. -/
theorem test_cdcDecodeError_05 : (after State.reset [.writeCmd 0x00000501#32]).map (·.resCdc) =
    some ⟨true, ⟨0x00#8, .errorFlags ⟨true, false, true, false, false, false⟩⟩⟩ := by decide
/-- CDC-E-3. -/
theorem test_cdcDecodeError_C0 : (after State.reset [.writeCmd 0x0000C001#32]).map (·.resCdc) =
    some ⟨true, ⟨0x00#8, .errorFlags noFlags⟩⟩ := by decide
/-- CDC-S-1. -/
theorem test_cdcDecodeStatus_98 : (after State.reset [.writeCmd 0x00009802#32]).map (·.resCdc) =
    some ⟨true, ⟨0x00#8, .status ⟨false, true, true, true⟩⟩⟩ := by decide
/-- CDC-S-2. -/
theorem test_cdcDecodeStatus_66 : (after State.reset [.writeCmd 0x00006602#32]).map (·.resCdc) =
    some ⟨true, ⟨0x00#8, .status ⟨false, false, false, false⟩⟩⟩ := by decide
/-- CDC-M-1. -/
theorem test_cdcDecodeMode_2C : (after State.reset [.writeCmd 0x00002C03#32]).map (·.resCdc) =
    some ⟨true, ⟨0x00#8, .driveMode ⟨2#3, true, true⟩⟩⟩ := by decide
/-- CDC-M-3. -/
theorem test_cdcDecodeMode_83 : (after State.reset [.writeCmd 0x00008303#32]).map (·.resCdc) =
    some ⟨true, ⟨0x00#8, .driveMode ⟨0#3, false, false⟩⟩⟩ := by decide
/-- CDC-N-2. -/
theorem test_cdcEncodeMode_7TT : (after State.reset [.writeCmd 0x00001F04#32]).map (·.resCdc) =
    some ⟨true, ⟨0x00#8, .encoded 0x7C#8⟩⟩ := by decide
/-- CDC-N-4. -/
theorem test_cdcEncodeMode_4FT : (after State.reset [.writeCmd 0x00001404#32]).map (·.resCdc) =
    some ⟨true, ⟨0x00#8, .encoded 0x44#8⟩⟩ := by decide
/-- CDC-W-1. -/
theorem test_cdcDecodeRaw_AAAA : (after State.reset [.writeCmd 0x00AAAA05#32]).map (·.resCdc) =
    some ⟨true, ⟨0x00#8, .raw ⟨42#6, 682#10⟩⟩⟩ := by decide
/-- CDC-W-4. -/
theorem test_cdcDecodeRaw_03FF : (after State.reset [.writeCmd 0x0003FF05#32]).map (·.resCdc) =
    some ⟨true, ⟨0x00#8, .raw ⟨0#6, 1023#10⟩⟩⟩ := by decide
/-- CDC-R-1. -/
theorem test_cdcDecodeReading_8 : (after blockInDbuf [.writeCmd 0x00000806#32]).map (·.resCdc) =
    some ⟨true, ⟨0x00#8, .reading ⟨some 400#16, some 42#16, some ⟨false, true, true, true⟩, some noFlags,
      some ⟨42#6, 682#10⟩⟩⟩⟩ := by decide
/-- CDC-R-5 and CDC-R-8. -/
theorem test_cdcDecodeReading_5_7 :
    (after blockInDbuf [.writeCmd 0x00000506#32]).map (·.resCdc) =
      some ⟨true, ⟨0x00#8, .reading ⟨some 400#16, some 42#16, some ⟨false, true, true, true⟩, none, none⟩⟩⟩ ∧
    (after blockInDbuf [.writeCmd 0x00000706#32]).map (·.resCdc) = some ⟨true, ⟨0x07#8, .badLength 7#6⟩⟩ := by decide
/-- CDC-V-1. -/
theorem test_cdcDecodeFrameValues_FA : (after (withDbuf frameFA) [.writeCmd 0x00002007#32]).map (·.resCdc) =
    some ⟨true, ⟨0x00#8, .values #v[5#16, 10#16, 15#16, 5#16, 10#16, 15#16, 288#16, 100#16, 50#16, 8#16, 2#16, 1#16,
      38656#16]⟩⟩ := by decide
/-- CDC-V-3. -/
theorem test_cdcDecodeFrameValues_31 : (after State.reset [.writeCmd 0x00001F07#32]).map (·.resCdc) =
    some ⟨true, ⟨0x07#8, .badLength 31#6⟩⟩ := by decide
/-- CDC-C-1 and CDC-C-2. -/
theorem test_cdcCheckFrame_FA :
    (after (withDbuf frameFA) [.writeCmd 0x00002008#32]).map (·.resCdc) = some ⟨true, ⟨0x00#8, .valid true⟩⟩ ∧
    (after (withDbuf (frameFA.set 31 0x41#8)) [.writeCmd 0x00002008#32]).map (·.resCdc) =
      some ⟨true, ⟨0x00#8, .valid false⟩⟩ := by decide
/-- CDC-C-6: the checksum matches and the header does not. -/
theorem test_cdcCheckFrame_header :
    (after (withDbuf ((frameFZ.set 2 0x01#8).set 31 0xAC#8)) [.writeCmd 0x00002008#32]).map (·.resCdc) =
      some ⟨true, ⟨0x00#8, .valid false⟩⟩ := by decide

/-! ### FrameSync and the particulate reader -/

/-- FS-1, its last push. -/
theorem test_fsPush_last_byte :
    (after oneByteShort [.writeCmd 0x00004010#32]).map (fun t => (t.resFsu, t.sinceCnt, t.wrPtr)) =
      some (⟨true, ⟨0x00#8, .frame frameFA⟩⟩, 0#32, 0#5) := by decide
/-- FS-3, its last push. -/
theorem test_fsPush_corrupted :
    (after oneByteShort [.writeCmd 0x00004110#32]).map (fun t => (t.resFsu, t.sinceCnt, t.fill)) =
      some (⟨true, ⟨0x01#8, .none⟩⟩, 32#32, 32#6) := by decide
/-- FS-3: 32 and 33 at a count of 32. -/
theorem test_fsIsStalled_boundary :
    (after { State.reset with sinceCnt := 32#32 } [.writeCmd 0x00002011#32]).map (·.resFsu) =
      some ⟨true, ⟨0x00#8, .stalled true⟩⟩ ∧
    (after { State.reset with sinceCnt := 32#32 } [.writeCmd 0x00002111#32]).map (·.resFsu) =
      some ⟨true, ⟨0x00#8, .stalled false⟩⟩ := by decide
/-- FS-7: 0 disables. -/
theorem test_fsIsStalled_zero :
    (after { State.reset with sinceCnt := 40#32 } [.writeCmd 0x00000011#32]).map (·.resFsu) =
      some ⟨true, ⟨0x00#8, .stalled false⟩⟩ := by decide
/-- 41_framesync.md R158. -/
theorem test_fsReset :
    (after oneByteShort [.writeCmd 0x00000012#32]).map (fun t => (t.resFsu, t.fill, t.wrPtr, t.sinceCnt)) =
      some (⟨true, ⟨0x00#8, .empty⟩⟩, 0#6, 0#5, 0#32) := by decide
/-- PR-4, its UART byte: the frame test comes first, although the count is at the threshold. -/
theorem test_prNextReading_frame_first :
    (after { oneByteShort with fsuBusy := true, fsuPhase := .prByte, prMax := 10#24 } [.uart (.byte 0x40#8)]).map
      (fun t => (t.resFsu.body.code, t.sinceCnt, t.fsuBusy)) = some (0x00#8, 0#32, false) := by decide
/-- PR-3, its UART byte: the count carries over from the command before. -/
theorem test_prNextReading_carries_over :
    (after { readerAt 40#24 with sinceCnt := 40#32, fill := 32#6 } [.uart (.byte 0x00#8)]).map
      (fun t => (t.resFsu, t.fsuBusy)) = some (⟨true, ⟨0x06#8, .framingFault 41#32⟩⟩, false) := by decide

/-! ### Gas controller -/

/-- GSC-SA-1, its second poll. -/
theorem test_gsStartApp_second_try :
    (after { gscAt .saStatus with tries := 2#24 } [.i2c (.byte 0x90#8)]).map (fun t => (t.resGsc, t.ctlState)) =
      some (⟨true, ⟨0x00#8, .startInfo 2#24⟩⟩, .appRunning) := by decide
/-- GSC-SA-6, its app-start command. -/
theorem test_gsStartApp_timeout :
    (after { gscAt .saStart with maxTries := 1#24 } [.i2c .ack]).map (fun t => (t.resGsc, t.log)) =
      some (⟨true, ⟨0x05#8, .appStartTimeout 1#24⟩⟩,
        [.tx .gsc (.writeBlock 0xF4#8 []) .ack, .done .gsc .appStartTimeout]) := by decide
/-- GSC-SM-5, its read of MEAS_MODE: only `interrupt` differs, and the cooldown applies. -/
theorem test_gsSwitchMode_equal_level :
    (after { gscAt .smRead with tgtMode := ⟨2#3, true, false⟩ } [.i2c (.byte 0x20#8)]).map
      (fun t => (t.gscPhase, t.coolApplied)) = some (.smIdleWr, true) := by decide
/-- GSC-SM-1, its 600th tick. -/
theorem test_gsSwitchMode_last_tick :
    (after { gscAt .smCool with coolCnt := 599#10 } [.tick]).map (fun t => (t.gscPhase, t.coolCnt)) =
      some (.smTgtWr, 0#10) := by decide
/-- GSC-PO-1, its result block. -/
theorem test_gsPollOnce_reading :
    (after (gscAt .poResult) [.i2c (.block resultBlock)]).map (·.resGsc) =
      some ⟨true, ⟨0x00#8, .reading ⟨some 400#16, some 42#16, some ⟨false, true, true, true⟩, some noFlags,
        some ⟨42#6, 682#10⟩⟩⟩⟩ := by decide
/-- GSC-PO-3, its error register. -/
theorem test_gsPollOnce_fault :
    (after (gscAt .poErr) [.i2c (.byte 0x10#8)]).map (·.resGsc) =
      some ⟨true, ⟨0x02#8, .deviceFault ⟨false, false, false, false, true, false⟩⟩⟩ := by decide
/-- BL-7, its write: the newest entry, not the largest. -/
theorem test_gsLoadBaseline_newest :
    (after { gscAt .blWr with hist := [0x0001#16, 0xFFFF#16, 0x0002#16] } [.i2c .ack]).map
      (fun t => (t.resGsc, t.log)) = some (⟨true, ⟨0x00#8, .loadInfo ⟨true, some 0x0002#16⟩⟩⟩,
        [.tx .gsc (.writeWord 0x11#8 0x0002#16) .ack, .done .gsc .ok]) := by decide
/-- BL-1. -/
theorem test_gsLoadBaseline_empty :
    (after State.reset [.writeCmd 0x00000023#32]).map (fun t => (t.resGsc, t.gscBusy, t.log)) =
      some (⟨true, ⟨0x00#8, .loadInfo ⟨false, none⟩⟩⟩, false, [.done .gsc .ok]) := by decide
/-- BL-5, its second read: the cap is 1. -/
theorem test_gsSaveBaseline_cap :
    (after { gscAt .blRd with calCap := 1, hist := [0x1111#16] } [.i2c (.word 0x2222#16)]).map
      (fun t => (t.resGsc, t.hist)) = some (⟨true, ⟨0x00#8, .saveInfo 0x2222#16⟩⟩, [0x2222#16]) := by decide
/-- BL-4, its read. -/
theorem test_gsSaveBaseline_fail :
    (after { gscAt .blRd with hist := [0x1234#16] } [.i2c .fail]).map (fun t => (t.resGsc, t.hist)) =
      some (⟨true, ⟨0x03#8, .transportError .readWord (some 0x11#8)⟩⟩, [0x1234#16]) := by decide
/-- GSC-RS-1, its write. -/
theorem test_gsSwReset :
    (after { gscAt .rsWr with ctlState := .appRunning } [.i2c .ack]).map (fun t => (t.resGsc, t.ctlState)) =
      some (⟨true, ⟨0x00#8, .empty⟩⟩, .appNotStarted) := by decide
/-- GSC-RS-2, its write. -/
theorem test_gsSwReset_fail :
    (after { gscAt .rsWr with ctlState := .appRunning } [.i2c .fail]).map (fun t => (t.resGsc, t.ctlState)) =
      some (⟨true, ⟨0x03#8, .transportError .writeBlock (some 0xFF#8)⟩⟩, .appRunning) := by decide
/-- GSC-ID-1, its read. -/
theorem test_gsCheckHwId_match :
    (after (gscAt .idRd) [.i2c (.byte 0x81#8)]).map (·.resGsc) =
      some ⟨true, ⟨0x00#8, .hwIdInfo ⟨0x81#8, true⟩⟩⟩ := by decide
/-- GSC-ID-2, its read. -/
theorem test_gsCheckHwId_mismatch :
    (after (gscAt .idRd) [.i2c (.byte 0x55#8)]).map (·.resGsc) =
      some ⟨true, ⟨0x00#8, .hwIdInfo ⟨0x55#8, false⟩⟩⟩ := by decide

/-! ### The whole block -/

/-- RST-1. -/
theorem test_rst :
    (after { gscAt .smCool with hist := [0x1234#16], fill := 5#6, coolCnt := 300#10, ctlState := .appRunning }
      [.rst]).map (fun t => (bstat t, t.fill, t.hist, t.gscPhase, t.log)) =
      some (0x00#8, 0#6, [0x1234#16], .idle, []) := by decide
/-- ENC-12: a command to a busy unit is refused. -/
theorem test_busy_refused :
    (match exec .fsReset (readerAt 64#24) with
      | .refused r => some r
      | _ => none) = some (.unitBusy .fsu) := by decide

/-! ### Witnesses: the hypotheses of each statement, met together -/

theorem witness_Ready : Ready State.reset := by decide

theorem witness_DecodeAndEncodeAgree :
    (Instr.gsSwitchMode 0x7C#8).wellFormed = true ∧ decode 0x00007C21#32 = .ok (.gsSwitchMode 0x7C#8) := ⟨rfl, rfl⟩

theorem witness_WordSelectsItsOnlyRow :
    (Op.fsPush, 0x00000010#32, 0xFFFF00FF#32) ∈ tableRows ∧ 0x0000FF10#32 &&& 0xFFFF00FF#32 = 0x00000010#32 := by decide

theorem witness_UnitIsSelectedByCmdBits :
    decode 0x00000001#32 = .ok (.cdcDecodeError 0x00#8) ∧ decode 0x00000012#32 = .ok .fsReset ∧
    decode 0x00000026#32 = .ok .gsCheckHwId ∧ 0x3#4 ≤ (0x00000030#32 : CmdWord).extractLsb' 4 4 := ⟨rfl, rfl, rfl, by decide⟩

/-- No row matches, as a computation. -/
def rowless (c : CmdWord) : Bool := tableRows.all fun r => c &&& r.2.2 != r.2.1

theorem illegalWord_of_rowless {c : CmdWord} (h : rowless c = true) : illegalWord c := fun r hr => by
  simpa using List.all_eq_true.mp h r hr

/-- The first and the last opcode of each range of unassigned opcodes, and a reserved bit. -/
theorem witness_IllegalWordCompletesOnCdc :
    Ready State.reset ∧ ∀ c ∈ [0x00000000#32, 0x00000009#32, 0x0000000F#32, 0x00000014#32, 0x0000001F#32,
      0x00000027#32, 0x000000FF#32, 0x01000025#32], illegalWord c :=
  ⟨by decide, fun c hc => illegalWord_of_rowless (List.all_eq_true.mp (by rfl) c hc)⟩

theorem witness_StepRunsDecodedCommand :
    1 ≤ State.reset.calCap ∧ decode 0x00004210#32 = .ok (.fsPush 0x42#8) ∧ State.reset.cmd = none := ⟨by decide, rfl, rfl⟩

theorem witness_CommandRefusedExactlyWhenUnitBusy :
    opUnit (Instr.cdcDecodeError 0x00#8).op = .cdc ∧
    (opUnit Instr.fsReset.op = .fsu ∧ (readerAt 0#24).fsuBusy = true ∧ State.reset.fsuBusy = false) ∧
    (opUnit Instr.gsPollOnce.op = .gsc ∧ (gscAt .poStatus).gscBusy = true ∧ State.reset.gscBusy = false) := by decide

theorem witness_CalCapIsFixedAndNotZero :
    ({ State.reset with calCap := 0 } : State).calCap = 0 ∧ step State.reset = .next State.reset := ⟨rfl, rfl⟩

/-- A word of each row whose statement says how its word decodes. -/
theorem witness_result_words :
    0x0000FF01#32 &&& 0xFFFF00FF#32 = 0x01#32 ∧ 0x0000FF02#32 &&& 0xFFFF00FF#32 = 0x02#32 ∧
    0x0000FF03#32 &&& 0xFFFF00FF#32 = 0x03#32 ∧ 0x00001F04#32 &&& 0xFFFFE0FF#32 = 0x04#32 ∧
    0x00FFFF05#32 &&& 0xFF0000FF#32 = 0x05#32 ∧ 0x00003F06#32 &&& 0xFFFFC0FF#32 = 0x06#32 ∧
    0x00003F07#32 &&& 0xFFFFC0FF#32 = 0x07#32 ∧ 0x00003F08#32 &&& 0xFFFFC0FF#32 = 0x08#32 ∧
    0x0000FF10#32 &&& 0xFFFF00FF#32 = 0x10#32 ∧ 0xFFFFFF11#32 &&& 0x000000FF#32 = 0x11#32 ∧
    0x00000012#32 &&& 0xFFFFFFFF#32 = 0x12#32 ∧ 0xFFFFFF13#32 &&& 0x000000FF#32 = 0x13#32 ∧
    0x00000022#32 &&& 0xFFFFFFFF#32 = 0x22#32 ∧ 0x00000023#32 &&& 0xFFFFFFFF#32 = 0x23#32 ∧
    0x00000024#32 &&& 0xFFFFFFFF#32 = 0x24#32 ∧ 0x00000025#32 &&& 0xFFFFFFFF#32 = 0x25#32 ∧
    0x00000026#32 &&& 0xFFFFFFFF#32 = 0x26#32 := by decide

theorem witness_DecodeReadingResult :
    ((0#6).toNat ∈ [0, 2, 4, 5, 6, 8] ∧ (8#6).toNat ∈ [0, 2, 4, 5, 6, 8]) ∧
    ((1#6).toNat ∉ [0, 2, 4, 5, 6, 8] ∧ (7#6).toNat ∉ [0, 2, 4, 5, 6, 8] ∧ (9#6).toNat ∉ [0, 2, 4, 5, 6, 8] ∧
      (63#6).toNat ∉ [0, 2, 4, 5, 6, 8]) := by decide

theorem witness_DecodeFrameValuesResult : 32#6 = 32#6 ∧ 31#6 ≠ 32#6 ∧ 33#6 ≠ 32#6 := by decide

theorem witness_CheckFrameResult : 32#6 = 32#6 ∧ 31#6 ≠ 32#6 ∧ 33#6 ≠ 32#6 := by decide

theorem witness_CodecLaws :
    (∀ n ∈ [0, 2, 4, 5, 6, 8], (resultBlock.toList.take n).length ∈ [0, 2, 4, 5, 6, 8]) ∧ frameValid frameFA = true := by
  decide

theorem witness_CdcCommandsArePure :
    opUnit (Instr.cdcCheckFrame 32#6).op = .cdc ∧ (Instr.cdcCheckFrame 32#6).op.format = .FL ∧
    (readerAt 0#24).dbuf = State.reset.dbuf := by decide

/-- Both ends of a push: the window `FA` completed, and not completed, at the same fill. -/
theorem witness_PushResult :
    oneByteShort.fsuBusy = false ∧ (31 ≤ oneByteShort.fill.toNat ∧ windowValid (shiftIn 0x40#8 oneByteShort) = true) ∧
    windowValid (shiftIn 0x41#8 oneByteShort) = false ∧
    ¬31 ≤ ({ oneByteShort with fill := 30#6 } : State).fill.toNat := by decide

theorem witness_WindowSlidesByOneByte :
    (∃ t, exec (.fsPush 0x42#8) State.reset = .next t) ∧
    Ready State.reset ∧ State.reset.fsuBusy = false ∧ 32 ≤ frameFA.toList.length := ⟨⟨_, rfl⟩, by decide⟩

theorem witness_FrameIsEmittedAtItsLastByteOnly :
    Ready State.reset ∧ State.reset.fsuBusy = false ∧ State.reset.fill = 0#6 ∧ (frameFA.toList.take 31).length ≤ 31 ∧
    frameValid frameFA = true := by decide

theorem witness_StallAfterUnacceptedPushes :
    Ready State.reset ∧ State.reset.fsuBusy = false ∧ State.reset.sinceCnt = 0#32 ∧
    ∃ t, runInputs State.reset (pushes [0x00#8]) = .next t ∧
      t.log = State.reset.log ++ List.replicate 1 (.done .fsu .none) :=
  ⟨by decide, rfl, rfl, _, rfl, rfl⟩

theorem witness_IsStalledResult : State.reset.fsuBusy = false := rfl
theorem witness_FsResetResult : oneByteShort.fsuBusy = false := rfl
theorem witness_NextReadingStarts : State.reset.fsuBusy = false := rfl

/-- A byte that completes a frame; one that does not, with the threshold just reached, just not reached, and off. -/
theorem witness_NextReadingTestsEachByte :
    (Ready { oneByteShort with fsuPhase := .prByte } ∧ windowValid (shiftIn 0x40#8 oneByteShort) = true) ∧
    (Ready (readerAt 1#24) ∧ (readerAt 1#24).fsuPhase = .prByte ∧ windowValid (shiftIn 0x00#8 (readerAt 1#24)) = false ∧
      (readerAt 1#24).prMax ≠ 0#24 ∧ (readerAt 1#24).prMax.toNat ≤ (readerAt 1#24).sinceCnt.toNat + 1) ∧
    (windowValid (shiftIn 0x00#8 (readerAt 2#24)) = false ∧
      ¬(readerAt 2#24).prMax.toNat ≤ (readerAt 2#24).sinceCnt.toNat + 1) ∧
    (windowValid (shiftIn 0x00#8 (readerAt 0#24)) = false ∧ ¬(readerAt 0#24).prMax ≠ 0#24) := by decide

theorem witness_NextReadingUartFailure : Ready (readerAt 5#24) ∧ (readerAt 5#24).fsuPhase = .prByte := by decide

theorem witness_NextReadingReturnsFrameValues :
    Ready State.reset ∧ State.reset.fsuBusy = false ∧ State.reset.fill = 0#6 ∧ State.reset.sinceCnt = 0#32 ∧
    frameValid frameFA = true ∧ (0#24 = 0#24 ∨ 32 ≤ (0#24).toNat) ∧ (32#24 = 0#24 ∨ 32 ≤ (32#24).toNat) := by decide

/-- The window is full at the one byte, and its checksum is wrong. -/
theorem witness_NextReadingFaultsAtThreshold :
    Ready { oneByteShort with sinceCnt := 0#32 } ∧ oneByteShort.fsuBusy = false ∧ 1#24 ≠ 0#24 ∧
    [0x41#8].length = (1#24).toNat ∧
    ∀ k, 1 ≤ k → k ≤ [0x41#8].length →
      windowValid (shiftInAll ([0x41#8].take k) { oneByteShort with sinceCnt := 0#32 }) = false := by
  refine ⟨by decide, rfl, by decide, rfl, fun k h1 h2 => ?_⟩
  obtain rfl : k = 1 := Nat.le_antisymm h2 h1
  decide

theorem witness_GscCommandsStart :
    State.reset.gscBusy = false ∧ State.reset.hist = [] ∧
    ({ State.reset with hist := [0x1234#16] } : State).hist ≠ [] := by decide

theorem witness_PhaseTransactions :
    ∀ p ∈ [GscPhase.idle, .saStatus, .saErr, .saStart, .smRead, .smIdleWr, .smCool, .smTgtWr, .poStatus, .poErr,
      .poResult, .blWr, .blRd, .rsWr, .idRd], (gscAt p).gscPhase = p ∧
      ({ gscAt p with hist := [0x1234#16] } : State).hist.getLast? = some 0x1234#16 := by decide

theorem witness_TransportFailureEndsOperation :
    Ready (gscAt .rsWr) ∧
    gscRequest (gscAt .rsWr) = some (.writeBlock 0xFF#8 [0x11#8, 0xE5#8, 0x72#8, 0x8A#8]) := by decide

/-- One Status byte for each of the four checks. -/
theorem witness_StartAppChecksInOrder :
    Ready (gscAt .saStatus) ∧ (gscAt .saStatus).gscPhase = .saStatus ∧
    (0x91#8).getLsbD 0 = true ∧
    ((0x80#8).getLsbD 0 = false ∧ (0x80#8).getLsbD 4 = false) ∧
    ((0x90#8).getLsbD 0 = false ∧ (0x90#8).getLsbD 4 = true ∧ (0x90#8).getLsbD 7 = true) ∧
    ((0x10#8).getLsbD 0 = false ∧ (0x10#8).getLsbD 4 = true ∧ (0x10#8).getLsbD 7 = false) := by decide

/-- Both kinds of wait, with the tries used up and not. -/
theorem witness_StartAppLoopsOrTimesOut :
    Ready (gscAt .saErr) ∧ (gscAt .saErr).gscPhase = .saErr ∧ (gscAt .saStart).gscPhase = .saStart ∧
    (({ gscAt .saErr with tries := 3#24 } : State).maxTries ≠ 0#24 ∧
      ({ gscAt .saErr with tries := 3#24 } : State).tries = ({ gscAt .saErr with tries := 3#24 } : State).maxTries) ∧
    ¬((gscAt .saErr).maxTries ≠ 0#24 ∧ (gscAt .saErr).tries = (gscAt .saErr).maxTries) := by decide

theorem witness_StartAppIsIdempotent :
    Ready State.reset ∧ State.reset.gscBusy = false ∧ (0x90#8).getLsbD 0 = false ∧ (0x90#8).getLsbD 4 = true ∧
    (0x90#8).getLsbD 7 = true := by decide

theorem witness_StartAppIsBoundedByItsTries :
    Ready State.reset ∧ State.reset.gscBusy = false ∧ 1#24 ≠ 0#24 ∧
    ∃ t, runInputs State.reset (issue (.gsStartApp 1#24) :: [I2CAnswer.byte 0x10#8, .ack].map .i2c) = .next t :=
  ⟨by decide, rfl, by decide, _, rfl⟩

/-- One pair of modes for each row of the table: equal but for ignored bits; from idle; an equal level; a decrease by
one. -/
theorem witness_SwitchModeTransitionTable :
    Ready (gscAt .smRead) ∧ (gscAt .smRead).gscPhase = .smRead ∧
    decodeMode 0x21#8 = decodeMode 0x20#8 ∧
    (decodeMode 0x00#8 ≠ decodeMode 0x30#8 ∧ (decodeMode 0x00#8).driveMode.toNat = 0) ∧
    (decodeMode 0x20#8 ≠ decodeMode 0x28#8 ∧ (decodeMode 0x20#8).driveMode.toNat ≠ 0 ∧
      (decodeMode 0x20#8).driveMode.toNat ≤ (decodeMode 0x28#8).driveMode.toNat) ∧
    (decodeMode 0x20#8).driveMode.toNat < (decodeMode 0x30#8).driveMode.toNat := by decide

/-- The last tick but one, the last tick, and a `stop`. -/
theorem witness_CooldownAndTargetSteps :
    Ready (gscAt .smIdleWr) ∧ (gscAt .smIdleWr).gscPhase = .smIdleWr ∧ (gscAt .smTgtWr).gscPhase = .smTgtWr ∧
    ({ gscAt .smCool with stop := true } : State).stop = true ∧
    ((gscAt .smCool).stop = false ∧ (598#10).toNat + 1 < 600 ∧ (599#10).toNat + 1 = 600) := by decide

theorem witness_SwitchModeWithoutCooldown :
    Ready State.reset ∧ State.reset.gscBusy = false ∧
    ((Instr.gsSwitchMode 0x20#8).wellFormed = true ∧ decodeMode 0x21#8 = decodeMode 0x20#8) ∧
    ((Instr.gsSwitchMode 0x30#8).wellFormed = true ∧ decodeMode 0x00#8 ≠ decodeMode 0x30#8 ∧
      (decodeMode 0x00#8).driveMode = 0#3) ∧
    ((Instr.gsSwitchMode 0x10#8).wellFormed = true ∧ decodeMode 0x20#8 ≠ decodeMode 0x10#8 ∧
      (decodeMode 0x10#8).driveMode < (decodeMode 0x20#8).driveMode) := by decide

theorem witness_CooldownHoldsSixHundredTicks :
    Ready State.reset ∧ State.reset.gscBusy = false ∧ State.reset.stop = false ∧
    (Instr.gsSwitchMode 0x28#8).wellFormed = true ∧ decodeMode 0x20#8 ≠ decodeMode 0x28#8 ∧
    (decodeMode 0x20#8).driveMode ≠ 0#3 ∧ (decodeMode 0x20#8).driveMode ≤ (decodeMode 0x28#8).driveMode ∧
    0 < 600 ∧ 599 < 600 := by decide

theorem witness_StopCancelsCooldownOnly :
    (Ready State.reset ∧ State.reset.gscBusy = false ∧ State.reset.stop = false ∧
      (Instr.gsSwitchMode 0x20#8).wellFormed = true ∧ decodeMode 0x10#8 ≠ decodeMode 0x20#8 ∧
      (decodeMode 0x10#8).driveMode ≠ 0#3 ∧ (decodeMode 0x10#8).driveMode ≤ (decodeMode 0x20#8).driveMode ∧
      0 < 600 ∧ 599 < 600) ∧
    (Ready (gscAt .smCool) ∧ ¬(Input.i2c .ack = .tick ∧ (gscAt .smCool).gscPhase = .smCool) ∧
      ∀ x, Input.i2c .ack ≠ .driveStop x) ∧
    (Ready (gscAt .smIdleWr) ∧ ¬(Input.tick = .tick ∧ (gscAt .smIdleWr).gscPhase = .smCool)) := by decide

/-- A cooldown with no tick counted yet. -/
def coolingState : State :=
  { gscAt .smCool with
    curMode := ⟨1#3, false, false⟩, tgtMode := ⟨2#3, false, false⟩, coolApplied := true
    log := [.tx .gsc (.writeByte 0x01#8 0x00#8) .ack], inputs := [.tick] }

theorem coolingState_inv : Inv coolingState where
  calCap_pos := by decide
  hist_le := by decide
  fill_le := by decide
  wrPtr_eq_fill := by decide
  sinceCnt_eq_fill := by decide
  gscBusy_iff := by decide
  fsuBusy_iff := by decide
  gsc_result := by decide
  fsu_result := by decide
  cool_lt := by decide
  cool_zero := by decide
  no_cooldown_yet := by decide
  cool_trigger := by decide
  target_write := by decide
  tries_le := by decide
  load_hist := by decide

theorem witness_CooldownLogIsKept :
    Inv coolingState ∧ CooldownLogged coolingState ∧ ∃ t, step coolingState = .next t :=
  ⟨coolingState_inv, ⟨fun _ => ⟨[], rfl⟩, fun h => absurd h (by decide)⟩, _, rfl⟩

/-- One Status byte for each end of a poll. -/
theorem witness_PollOnceResult :
    Ready State.reset ∧ State.reset.gscBusy = false ∧ (0x09#8).getLsbD 0 = true ∧
    ((0x08#8).getLsbD 0 = false ∧ (0x08#8).getLsbD 3 = true) ∧
    ((0x90#8).getLsbD 0 = false ∧ (0x90#8).getLsbD 3 = false) := by decide

theorem witness_SwResetResult : Ready State.reset ∧ State.reset.gscBusy = false := by decide
theorem witness_CheckHwIdResult : Ready State.reset ∧ State.reset.gscBusy = false := by decide

theorem witness_LoadBaselineResult :
    Ready State.reset ∧ State.reset.gscBusy = false ∧ State.reset.hist = [] ∧
    ({ State.reset with hist := [0x1234#16, 0xBEEF#16] } : State).hist = [0x1234#16] ++ [0xBEEF#16] := by decide

theorem witness_SaveBaselineResult : Ready State.reset ∧ State.reset.gscBusy = false := by decide

theorem witness_HistoryKeepsNewestEntries :
    Ready { State.reset with calCap := 1, hist := [0x1111#16] } ∧ State.reset.gscBusy = false ∧
    [0x1111#16].length ≤ 1 := by decide

theorem witness_OnlySaveWritesHistory :
    ∃ t, step { gscAt .blRd with inputs := [.i2c (.word 0x5555#16)] } = .next t ∧ t.hist ≠ (gscAt .blRd).hist :=
  ⟨_, rfl, by decide⟩

/-- A busy GSC that an answer brings to APP_RUNNING. -/
def runningSoon : State := { gscAt .saStatus with inputs := [.i2c (.byte 0x90#8)] }

theorem runningSoon_inv : Inv runningSoon where
  calCap_pos := by decide
  hist_le := by decide
  fill_le := by decide
  wrPtr_eq_fill := by decide
  sinceCnt_eq_fill := by decide
  gscBusy_iff := by decide
  fsuBusy_iff := by decide
  gsc_result := by decide
  fsu_result := by decide
  cool_lt := by decide
  cool_zero := by decide
  no_cooldown_yet := by decide
  cool_trigger := by decide
  target_write := by decide
  tries_le := by decide
  load_hist := by decide

theorem witness_OnlyHandshakeAndResetsWriteCtlState :
    Inv runningSoon ∧ ∃ t, step runningSoon = .next t ∧ t.ctlState ≠ runningSoon.ctlState :=
  ⟨runningSoon_inv, _, rfl, by decide⟩

theorem witness_LogGrowsByMapTransactions : ∃ t, step runningSoon = .next t := ⟨_, rfl⟩

theorem witness_UnitsCommute :
    Ready { gscAt .smCool with fsuBusy := true, fsuPhase := .prByte } ∧
    (∃ t, runInputs { gscAt .smCool with fsuBusy := true, fsuPhase := .prByte } [.uart .fail, .tick] = .next t) ∧
    ∃ u, runInputs { gscAt .smCool with fsuBusy := true, fsuPhase := .prByte } [.tick, .uart .fail] = .next u :=
  ⟨by decide, ⟨_, rfl⟩, _, rfl⟩

theorem witness_BusyUnitsWaitForTheirOwnInputs :
    Ready { gscAt .saErr with fsuBusy := true, fsuPhase := .prByte } ∧
    (∃ t, step (State.withInput { gscAt .saErr with fsuBusy := true, fsuPhase := .prByte } (.driveStop true)) = .next t) ∧
    Input.driveStop true ≠ .rst ∧ Input.driveStop true ≠ .tick ∧ (∀ a, Input.driveStop true ≠ .i2c a) ∧
    ∀ a, Input.driveStop true ≠ .uart a :=
  ⟨by decide, ⟨_, rfl⟩, nofun, nofun, nofun, nofun⟩

theorem witness_OnlyHostWritesDbuf :
    Ready State.reset ∧
    ∃ t, step { State.reset with inputs := [.writeDbuf 31#5 0xFF#8] } = .next t ∧ t.dbuf ≠ State.reset.dbuf :=
  ⟨by decide, _, rfl, by decide⟩

theorem witness_BlockResetResult : Ready (gscAt .smCool) := by decide

theorem witness_PowerOnMeetsInvariant : 1 ≤ 1 ∧ ([0x1234#16] : List U16).length ≤ 1 := by decide

theorem witness_StepKeepsInvariant : Inv coolingState ∧ ∃ t, step coolingState = .next t := ⟨coolingState_inv, _, rfl⟩

/-- A poll whose Status read fails, and the state after it. -/
def failingPoll : State := { gscAt .poStatus with tries := 0#24, maxTries := 0#24 }

def failedPoll : State :=
  { failingPoll with
    gscBusy := false, gscPhase := .idle
    resGsc := ⟨true, ⟨0x03#8, .transportError .readByte (some 0x00#8)⟩⟩
    log := [.tx .gsc (.readByte 0x00#8) .fail, .done .gsc .transportError] }

/-- The run in which I2CDEV answers `fail` for ever. -/
def failingRun : Nat → State
  | 0 => failingPoll
  | _ + 1 => failedPoll

theorem failingPoll_inv : Inv failingPoll where
  calCap_pos := by decide
  hist_le := by decide
  fill_le := by decide
  wrPtr_eq_fill := by decide
  sinceCnt_eq_fill := by decide
  gscBusy_iff := by decide
  fsuBusy_iff := by decide
  gsc_result := by decide
  fsu_result := by decide
  cool_lt := by decide
  cool_zero := by decide
  no_cooldown_yet := by decide
  cool_trigger := by decide
  target_write := by decide
  tries_le := by decide
  load_hist := by decide

theorem witness_BusyGscCompletesUnderFairness :
    IsRun (fun _ => .i2c .fail) failingRun ∧ WeaklyFair (fun _ => .i2c .fail) failingRun ∧
    (failingRun 0).cmd = none ∧ Inv (failingRun 0) ∧ (failingRun 0).gscBusy = true ∧
    (inStartApp (failingRun 0).gscPhase = true → (failingRun 0).maxTries ≠ 0#24) := by
  refine ⟨fun n => ?_, fun n => ⟨⟨n + 1, Nat.le_succ n, .inr (show failedPoll.gscPhase ≠ .smCool by decide)⟩,
    ⟨n, Nat.le_refl n, .inl ⟨_, rfl⟩⟩, ⟨n + 1, Nat.le_succ n, .inr (show failedPoll.fsuPhase ≠ .prByte by decide)⟩⟩, rfl, failingPoll_inv, rfl, by decide⟩
  cases n <;> rfl

end Sys2Proof.Tests.Slice0
end

section
/-! State-family obligations (10_state.md). A delivered input is the work of one unit: either it leaves the GSC, `hist` and
`dbuf` alone (`FsuStep`), or it leaves the FSU, `hist` and `dbuf` alone (`GscStep`), or it is the answered baseline read, a
HOST write of `dbuf`, or `rst`. The obligations follow from that classification. -/

namespace Sys2Proof.Machine

open Sys2Proof

/-! ### What each branching continuation of the GSC can do -/

theorem startAppAfterStatus_cases (sb : Byte) (s : State) :
    startAppAfterStatus sb s = toPhase .saErr s ∨
    startAppAfterStatus sb s =
      complete .gsc .noValidApplication (.noValidApplication sb) (setCtl .appNotStarted s) ∨
    startAppAfterStatus sb s = complete .gsc .ok (.startInfo s.tries) (setCtl .appRunning s) ∨
    startAppAfterStatus sb s = toPhase .saStart s := by
  unfold startAppAfterStatus
  split
  · exact .inl rfl
  · split
    · exact .inr (.inl rfl)
    · split
      · exact .inr (.inr (.inl rfl))
      · exact .inr (.inr (.inr rfl))

theorem switchModeAfterRead_cases (mb : Byte) (s : State) :
    switchModeAfterRead mb s =
      complete .gsc .ok (.switchInfo ⟨false, false⟩) (setCurMode (decodeMode mb) s) ∨
    (decodeMode mb ≠ s.tgtMode ∧ cooldownTrigger (decodeMode mb) s.tgtMode = true ∧
      switchModeAfterRead mb s = toPhase .smIdleWr (markCooldown (setCurMode (decodeMode mb) s))) ∨
    (decodeMode mb ≠ s.tgtMode ∧ ¬cooldownTrigger (decodeMode mb) s.tgtMode = true ∧
      switchModeAfterRead mb s = toPhase .smTgtWr (setCurMode (decodeMode mb) s)) := by
  unfold switchModeAfterRead
  split
  · exact .inl rfl
  · split
    · exact .inr (.inl ⟨‹_›, ‹_›, rfl⟩)
    · exact .inr (.inr ⟨‹_›, ‹_›, rfl⟩)

theorem pollAfterStatus_cases (sb : Byte) (s : State) :
    pollAfterStatus sb s = toPhase .poErr s ∨ pollAfterStatus sb s = toPhase .poResult s ∨
    pollAfterStatus sb s = complete .gsc .none .none s := by
  unfold pollAfterStatus
  split
  · exact .inl rfl
  · split
    · exact .inr (.inl rfl)
    · exact .inr (.inr rfl)

/-- A handshake that has just begun has polls left, so its first wait is the Status read. -/
theorem startAppLoop_initTries (n : BitVec 24) (s : State) :
    startAppLoop (initTries n s) = toPhase .saStatus (countTry (initTries n s)) := by
  rcases startAppLoop_cases (initTries n s) with ⟨hn, h0, -⟩ | ⟨-, h⟩
  · exact absurd h0.symm hn
  · exact h

theorem cooldownTrigger_iff (cur tgt : DriveMode) :
    cooldownTrigger cur tgt = true ↔ cur.driveMode ≠ 0#3 ∧ cur.driveMode ≤ tgt.driveMode := by
  simp [cooldownTrigger]

theorem histAppend_length_le {cap : Nat} {hist : List U16} (h : hist.length ≤ cap) (w : U16) :
    (histAppend cap hist w).length ≤ cap := by
  unfold histAppend
  split
  · simp only [List.length_drop, List.length_append, List.length_singleton]; omega
  · exact Nat.not_lt.mp ‹_›

/-! ### Frames: what a step of one unit leaves alone -/

/-- `dbuf`, the history and everything of the GSC are the same in both states. -/
structure FsuFrame (s t : State) : Prop where
  dbuf : t.dbuf = s.dbuf
  hist : t.hist = s.hist
  ctlState : t.ctlState = s.ctlState
  gscBusy : t.gscBusy = s.gscBusy
  gscPhase : t.gscPhase = s.gscPhase
  resGsc : t.resGsc = s.resGsc
  tries : t.tries = s.tries
  maxTries : t.maxTries = s.maxTries
  curMode : t.curMode = s.curMode
  tgtMode : t.tgtMode = s.tgtMode
  coolCnt : t.coolCnt = s.coolCnt
  coolApplied : t.coolApplied = s.coolApplied

/-- `dbuf`, the history and everything of the FSU are the same in both states. -/
structure GscFrame (s t : State) : Prop where
  dbuf : t.dbuf = s.dbuf
  hist : t.hist = s.hist
  fsuBusy : t.fsuBusy = s.fsuBusy
  fsuPhase : t.fsuPhase = s.fsuPhase
  resFsu : t.resFsu = s.resFsu
  prMax : t.prMax = s.prMax
  win : t.win = s.win
  wrPtr : t.wrPtr = s.wrPtr
  fill : t.fill = s.fill
  sinceCnt : t.sinceCnt = s.sinceCnt

/-! ### The invariant, unit by unit -/

/-- FrameSync's part of the invariant (10_state.md R34, 41_framesync.md R154). -/
structure SyncInv (s : State) : Prop where
  fill_le : s.fill.toNat ≤ 32
  wrPtr_eq_fill : s.fill.toNat < 32 → s.wrPtr.toNat = s.fill.toNat
  sinceCnt_eq_fill : s.fill.toNat < 32 → s.sinceCnt.toNat = s.fill.toNat

/-- The FSU's part of the invariant (10_state.md R25). -/
structure FsuInv (s : State) : Prop where
  sync : SyncInv s
  busy_iff : s.fsuBusy = true ↔ s.fsuPhase ≠ .idle
  result : s.fsuBusy = true → s.resFsu.valid = false

/-- What holds while the GSC waits in a phase, beside what holds in every phase. -/
def GscFacts (s : State) : GscPhase → Prop
  | .saStatus | .saErr | .saStart =>
    1 ≤ s.tries.toNat ∧ (s.maxTries ≠ 0#24 → s.tries.toNat ≤ s.maxTries.toNat)
  | .smRead => s.coolApplied = false
  | .smIdleWr | .smCool => s.coolApplied = true ∧ s.curMode ≠ s.tgtMode ∧
    s.curMode.driveMode ≠ 0#3 ∧ s.curMode.driveMode ≤ s.tgtMode.driveMode
  | .smTgtWr => s.curMode ≠ s.tgtMode ∧
    (s.coolApplied = true ↔ s.curMode.driveMode ≠ 0#3 ∧ s.curMode.driveMode ≤ s.tgtMode.driveMode)
  | .blWr => s.hist ≠ []
  | .idle | .poStatus | .poErr | .poResult | .blRd | .rsWr | .idRd => True

/-- The GSC's part of the invariant. -/
structure GscInv (s : State) : Prop where
  busy_iff : s.gscBusy = true ↔ s.gscPhase ≠ .idle
  result : s.gscBusy = true → s.resGsc.valid = false
  cool_lt : s.gscPhase = .smCool → s.coolCnt.toNat < 600
  cool_zero : s.gscPhase ≠ .smCool → s.coolCnt = 0#10
  facts : GscFacts s s.gscPhase

theorem GscInv.facts_at {s : State} {p : GscPhase} (h : GscInv s) (hp : s.gscPhase = p) : GscFacts s p :=
  hp ▸ h.facts

theorem Inv.gscFacts {s : State} (h : Inv s) : GscFacts s s.gscPhase := by
  cases hp : s.gscPhase with
  | saStatus | saErr | saStart => exact h.tries_le (by rw [hp]; rfl)
  | smRead => exact h.no_cooldown_yet hp
  | smIdleWr => exact h.cool_trigger (.inl hp)
  | smCool => exact h.cool_trigger (.inr hp)
  | smTgtWr => exact h.target_write hp
  | blWr => exact h.load_hist hp
  | idle | poStatus | poErr | poResult | blRd | rsWr | idRd => trivial

theorem GscInv.tries_le {s : State} (h : GscInv s) (hp : inStartApp s.gscPhase = true) :
    1 ≤ s.tries.toNat ∧ (s.maxTries ≠ 0#24 → s.tries.toNat ≤ s.maxTries.toNat) := by
  simp only [inStartApp, Bool.or_eq_true, beq_iff_eq] at hp
  obtain (hp | hp) | hp := hp <;> exact h.facts_at hp

/-- The invariant of the block is that of its history, its FSU and its GSC. -/
theorem inv_iff (s : State) :
    Inv s ↔ (1 ≤ s.calCap ∧ s.hist.length ≤ s.calCap) ∧ FsuInv s ∧ GscInv s where
  mp h := ⟨⟨h.calCap_pos, h.hist_le⟩,
    ⟨⟨h.fill_le, h.wrPtr_eq_fill, h.sinceCnt_eq_fill⟩, h.fsuBusy_iff, h.fsu_result⟩,
    ⟨h.gscBusy_iff, h.gsc_result, h.cool_lt, h.cool_zero, h.gscFacts⟩⟩
  mpr := fun ⟨⟨hcap, hhist⟩, hf, hg⟩ =>
    { calCap_pos := hcap
      hist_le := hhist
      fill_le := hf.sync.fill_le
      wrPtr_eq_fill := hf.sync.wrPtr_eq_fill
      sinceCnt_eq_fill := hf.sync.sinceCnt_eq_fill
      gscBusy_iff := hg.busy_iff
      fsuBusy_iff := hf.busy_iff
      gsc_result := hg.result
      fsu_result := hf.result
      cool_lt := hg.cool_lt
      cool_zero := hg.cool_zero
      no_cooldown_yet := hg.facts_at
      cool_trigger := fun hp => hp.elim hg.facts_at hg.facts_at
      target_write := hg.facts_at
      tries_le := hg.tries_le
      load_hist := hg.facts_at }

/-- The FSU's invariant speaks of these six fields only. -/
theorem FsuInv.congr {s t : State} (hi : FsuInv s) (hfill : t.fill = s.fill) (hptr : t.wrPtr = s.wrPtr)
    (hcnt : t.sinceCnt = s.sinceCnt) (hbusy : t.fsuBusy = s.fsuBusy) (hphase : t.fsuPhase = s.fsuPhase)
    (hres : t.resFsu = s.resFsu) : FsuInv t where
  sync := ⟨by rw [hfill]; exact hi.sync.fill_le, by rw [hfill, hptr]; exact hi.sync.wrPtr_eq_fill,
    by rw [hfill, hcnt]; exact hi.sync.sinceCnt_eq_fill⟩
  busy_iff := by rw [hbusy, hphase]; exact hi.busy_iff
  result := by rw [hbusy, hres]; exact hi.result

theorem GscFrame.fsuInv {s t : State} (h : GscFrame s t) (hi : FsuInv s) : FsuInv t :=
  hi.congr h.fill h.wrPtr h.sinceCnt h.fsuBusy h.fsuPhase h.resFsu

/-- The facts of a phase speak only of the fields that the FSU leaves alone. -/
theorem FsuFrame.gscFacts_eq {s t : State} (h : FsuFrame s t) (p : GscPhase) : GscFacts t p = GscFacts s p := by
  cases p <;> simp only [GscFacts, h.tries, h.maxTries, h.coolApplied, h.curMode, h.tgtMode, h.hist]

theorem FsuFrame.gscInv {s t : State} (h : FsuFrame s t) (hi : GscInv s) : GscInv t where
  busy_iff := by rw [h.gscBusy, h.gscPhase]; exact hi.busy_iff
  result := by rw [h.gscBusy, h.resGsc]; exact hi.result
  cool_lt := by rw [h.gscPhase, h.coolCnt]; exact hi.cool_lt
  cool_zero := by rw [h.gscPhase, h.coolCnt]; exact hi.cool_zero
  facts := by rw [h.gscPhase, h.gscFacts_eq]; exact hi.facts

/-! ### The invariant of FrameSync and of the FSU -/

theorem SyncInv.of_empty {s : State} (hf : s.fill = 0#6) (hw : s.wrPtr = 0#5) (hs : s.sinceCnt = 0#32) :
    SyncInv s := ⟨by simp [hf], by simp [hf, hw], by simp [hf, hs]⟩

/-- A push counts in the pointer, in `fill` and in `since_cnt` alike until the window is full. -/
theorem SyncInv.push {s : State} (h : SyncInv s) (b : Byte) : SyncInv (pushByte b s).1 := by
  obtain ⟨hle, hwr, hcnt⟩ := h
  have hfill : (shiftIn b s).fill.toNat = min (s.fill.toNat + 1) 32 := fillInc_toNat s.fill
  have hptr (hlt : (shiftIn b s).fill.toNat < 32) : (shiftIn b s).wrPtr.toNat = (shiftIn b s).fill.toNat := by
    have := hwr (by omega)
    rw [hfill, shiftIn_wrPtr, BitVec.toNat_add, BitVec.toNat_ofNat]
    omega
  rcases pushByte_cases b s with ⟨hv, hp⟩ | ⟨-, hp⟩ <;> rw [hp]
  · have hfull : (shiftIn b s).fill.toNat = 32 := by rw [windowValid_fill hv]; rfl
    exact ⟨hfull.le, fun hlt => hptr hlt, fun hlt => absurd hfull (Nat.ne_of_lt hlt)⟩
  · refine ⟨?_, fun hlt => hptr hlt, fun hlt => ?_⟩
    · rw [setSince_fill, hfill]; omega
    · rw [setSince_fill] at hlt ⊢
      have := hcnt (by omega)
      rw [setSince_sinceCnt, satInc_toNat, hfill]
      omega

/-- Of an idle FSU only FrameSync counts. -/
theorem FsuInv.of_idle {s : State} (h : SyncInv s) (hb : s.fsuBusy = false) (hp : s.fsuPhase = .idle) : FsuInv s :=
  ⟨h, by simp [hb, hp], by simp [hb]⟩

theorem SyncInv.complete {s : State} (h : SyncInv s) (c : ResCode) (p : Payload) :
    FsuInv (complete .fsu c p s) :=
  .of_idle ⟨h.fill_le, h.wrPtr_eq_fill, h.sinceCnt_eq_fill⟩ rfl rfl

/-! ### Steps of the FSU -/

/-- A step that leaves the GSC, `hist` and `dbuf` alone and keeps the FSU's invariant. -/
structure FsuStep (s t : State) : Prop where
  frame : FsuFrame s t
  inv : FsuInv s → FsuInv t

theorem FsuFrame.of_pushByte (b : Byte) (s : State) : FsuFrame s (pushByte b s).1 := by
  rcases pushByte_cases b s with ⟨-, h⟩ | ⟨-, h⟩ <;> rw [h] <;> constructor <;> rfl

theorem FsuFrame.complete {s t : State} (h : FsuFrame s t) (c : ResCode) (p : Payload) :
    FsuFrame s (complete .fsu c p t) := by
  obtain ⟨⟩ := h
  constructor <;> assumption

theorem FsuFrame.trans {s t u : State} (h : FsuFrame s t) (h' : FsuFrame t u) : FsuFrame s u where
  dbuf := h'.dbuf.trans h.dbuf
  hist := h'.hist.trans h.hist
  ctlState := h'.ctlState.trans h.ctlState
  gscBusy := h'.gscBusy.trans h.gscBusy
  gscPhase := h'.gscPhase.trans h.gscPhase
  resGsc := h'.resGsc.trans h.resGsc
  tries := h'.tries.trans h.tries
  maxTries := h'.maxTries.trans h.maxTries
  curMode := h'.curMode.trans h.curMode
  tgtMode := h'.tgtMode.trans h.tgtMode
  coolCnt := h'.coolCnt.trans h.coolCnt
  coolApplied := h'.coolApplied.trans h.coolApplied

/-- A step that leaves both units alone. -/
theorem FsuStep.of_frames {s t : State} (h : FsuFrame s t) (h' : GscFrame s t) : FsuStep s t := ⟨h, h'.fsuInv⟩

/-- A step that writes only FSU registers and completes. -/
theorem FsuStep.complete {s t : State} (hf : FsuFrame s t) (hs : FsuInv s → SyncInv t) (c : ResCode) (p : Payload) :
    FsuStep s (complete .fsu c p t) :=
  ⟨hf.complete c p, fun hi => (hs hi).complete c p⟩

theorem FsuFrame.acceptFsu (s : State) : FsuFrame s (acceptFsu s) := by constructor <;> rfl

theorem SyncInv.acceptFsu {s : State} (h : SyncInv s) : SyncInv (acceptFsu s) :=
  ⟨h.fill_le, h.wrPtr_eq_fill, h.sinceCnt_eq_fill⟩

theorem SyncInv.logEvent {s : State} (h : SyncInv s) (ev : LogEvent) : SyncInv (logEvent ev s) :=
  ⟨h.fill_le, h.wrPtr_eq_fill, h.sinceCnt_eq_fill⟩

theorem FsuStep.fsPush (b : Byte) (s : State) : FsuStep s (pushEnd (pushByte b (acceptFsu s))) := by
  have hf := (FsuFrame.acceptFsu s).trans (.of_pushByte b _)
  have hs (hi : FsuInv s) := hi.sync.acceptFsu.push b
  cases hp : pushByte b (acceptFsu s) with
  | mk t o =>
    rw [hp] at hf hs
    cases o with
    | some F => exact .complete hf hs _ _
    | none => exact .complete hf hs _ _

theorem FsuStep.waitByte (n : BitVec 24) (s : State) : FsuStep s (waitByte n (acceptFsu s)) where
  frame := by constructor <;> rfl
  inv hi := ⟨⟨hi.sync.fill_le, hi.sync.wrPtr_eq_fill, hi.sync.sinceCnt_eq_fill⟩, by simp, fun _ => rfl⟩

/-- A byte that ends nothing leaves the FSU waiting; the frame and the stall test end the operation. -/
theorem FsuStep.nextByte (b : Byte) (s : State) :
    FsuStep s (prTests (pushByte b (Machine.logEvent (.rx (.byte b)) s))) := by
  have hl : FsuFrame s (Machine.logEvent (.rx (.byte b)) s) := by constructor <;> rfl
  have hf := hl.trans (.of_pushByte b _)
  have hs (hi : FsuInv s) := (hi.sync.logEvent (.rx (.byte b))).push b
  rcases pushByte_cases b (Machine.logEvent (.rx (.byte b)) s) with ⟨-, hp⟩ | ⟨-, hp⟩ <;> rw [hp] at hf hs ⊢
  · exact .complete hf hs _ _
  · rw [prTests]
    split
    · exact .complete hf hs _ _
    · exact ⟨hf, fun hi => ⟨hs hi, hi.busy_iff, hi.result⟩⟩

theorem fsuAnswer_step {a : UartAnswer} {s t : State} (h : fsuAnswer a s = .next t) : FsuStep s t := by
  rcases fsuAnswer_next h with ⟨-, rfl⟩ | ⟨-, -, rfl⟩ | ⟨b, -, -, rfl⟩
  · exact .of_frames (by constructor <;> rfl) (by constructor <;> rfl)
  · exact .complete (by constructor <;> rfl) (fun hi => hi.sync.logEvent _) _ _
  · exact .nextByte b s

/-! ### Steps of the GSC -/

/-- The two ways in which an operation of the GSC writes `ctl_state` (10_state.md R40). -/
def CtlWritten (s t : State) : Prop :=
  (t.ctlState = .appRunning ∧ s.gscPhase = .saStatus ∧ ∃ tries, t.resGsc = ⟨true, ⟨0x00#8, .startInfo tries⟩⟩) ∨
  (t.ctlState = .appNotStarted ∧
    ((inStartApp s.gscPhase = true ∧ ((∃ b, t.resGsc = ⟨true, ⟨0x04#8, .noValidApplication b⟩⟩) ∨
        ∃ n, t.resGsc = ⟨true, ⟨0x05#8, .appStartTimeout n⟩⟩)) ∨
      (s.gscPhase = .rsWr ∧ t.resGsc = ⟨true, ⟨0x00#8, .empty⟩⟩)))

/-- A step that leaves the FSU, `hist` and `dbuf` alone, keeps the GSC's invariant and writes `ctl_state` by the rules
only. -/
structure GscStep (s t : State) : Prop where
  frame : GscFrame s t
  inv : GscInv s → GscInv t
  ctl : t.ctlState = s.ctlState ∨ CtlWritten s t

/-- The GSC is busy, has no result and counts no cooldown. -/
structure GscRunning (s : State) : Prop where
  busy : s.gscBusy = true
  invalid : s.resGsc.valid = false
  coolCnt : s.coolCnt = 0#10

theorem GscInv.running {s : State} (h : GscInv s) {p : GscPhase} (hp : s.gscPhase = p) (hidle : p ≠ .idle)
    (hcool : p ≠ .smCool) : GscRunning s := by
  subst hp
  have hb := h.busy_iff.mpr hidle
  exact ⟨hb, h.result hb, h.cool_zero hcool⟩

theorem GscInv.phase_idle {s : State} (h : GscInv s) (hb : s.gscBusy = false) : s.gscPhase = .idle :=
  not_not.mp fun hne => Bool.false_ne_true (hb.symm.trans (h.busy_iff.mpr hne))

/-- An idle GSC that is accepted is running. -/
theorem GscInv.acceptGsc {s : State} (h : GscInv s) (hb : s.gscBusy = false) : GscRunning (acceptGsc s) :=
  ⟨rfl, rfl, h.cool_zero (by rw [h.phase_idle hb]; nofun)⟩

theorem GscInv.of_idle {s : State} (hb : s.gscBusy = false) (hp : s.gscPhase = .idle) (hc : s.coolCnt = 0#10) :
    GscInv s where
  busy_iff := by simp [hb, hp]
  result := by simp [hb]
  cool_lt := by simp [hp]
  cool_zero _ := hc
  facts := by rw [hp]; trivial

/-- A running GSC may wait in any phase whose facts hold. -/
theorem GscRunning.toPhase {s : State} (h : GscRunning s) {p : GscPhase} (hidle : p ≠ .idle) (hf : GscFacts s p) :
    GscInv (toPhase p s) where
  busy_iff := by simp [h.busy, hidle]
  result _ := h.invalid
  cool_lt _ := by simp [h.coolCnt]
  cool_zero _ := h.coolCnt
  facts := by rw [toPhase_gscPhase]; cases p <;> exact hf

/-- The log is no part of the GSC's invariant. -/
theorem GscStep.of_logEvent {ev : LogEvent} {s t : State} (h : GscStep (logEvent ev s) t) : GscStep s t := by
  obtain ⟨⟨⟩, hinv, hctl⟩ := h
  have hl : FsuFrame s (logEvent ev s) := by constructor <;> rfl
  exact ⟨by constructor <;> assumption, fun hi => hinv (hl.gscInv hi), hctl⟩

/-! #### Commands -/

theorem GscStep.accept {s : State} (hb : s.gscBusy = false) {p : GscPhase} (hidle : p ≠ .idle)
    (hf : GscFacts (acceptGsc s) p) : GscStep s (Machine.toPhase p (acceptGsc s)) :=
  ⟨by constructor <;> rfl, fun hi => (hi.acceptGsc hb).toPhase hidle hf, .inl rfl⟩

/-- Counting a try that the bound still allows. -/
theorem GscFacts.countTry {s : State} (hle : s.maxTries ≠ 0#24 → s.tries.toNat ≤ s.maxTries.toNat)
    (hne : ¬(s.maxTries ≠ 0#24 ∧ s.tries = s.maxTries)) : GscFacts (countTry s) .saStatus := by
  refine ⟨?_, fun hm => ?_⟩ <;> rw [countTry_tries, satInc_toNat]
  · omega
  · have hlt : s.tries.toNat ≠ s.maxTries.toNat := fun h => hne ⟨hm, BitVec.eq_of_toNat_eq h⟩
    have := hle hm
    rw [countTry_maxTries]
    omega

theorem GscStep.startApp {s : State} (hb : s.gscBusy = false) (n : BitVec 24) :
    GscStep s (startAppLoop (initTries n (acceptGsc s))) := by
  rw [startAppLoop_initTries]
  refine ⟨by constructor <;> rfl, fun hi => ?_, .inl rfl⟩
  have ⟨hbusy, hinvalid, hcool⟩ := hi.acceptGsc hb
  have hr : GscRunning (Machine.countTry (initTries n (Machine.acceptGsc s))) := ⟨hbusy, hinvalid, hcool⟩
  exact hr.toPhase nofun (.countTry (by simp) fun h => h.1 h.2.symm)

theorem GscStep.switchMode {s : State} (hb : s.gscBusy = false) (m : DriveMode) :
    GscStep s (Machine.toPhase .smRead (initSwitch m (acceptGsc s))) := by
  refine ⟨by constructor <;> rfl, fun hi => ?_, .inl rfl⟩
  have ⟨hbusy, hinvalid, hcool⟩ := hi.acceptGsc hb
  have hr : GscRunning (initSwitch m (Machine.acceptGsc s)) := ⟨hbusy, hinvalid, hcool⟩
  exact hr.toPhase nofun rfl

/-- A command is a step of one unit; a CDC command leaves both alone. -/
theorem exec_step {i : Instr} {s t : State} (h : exec i s = .next t) : FsuStep s t ∨ GscStep s t := by
  rcases exec_next h with ⟨-, c, p, -, rfl⟩ | ⟨-, h⟩ | ⟨hb, h⟩
  · exact .inl (.of_frames (by constructor <;> rfl) (by constructor <;> rfl))
  · left
    rcases h with ⟨b, -, rfl⟩ | ⟨n, -, rfl⟩ | ⟨-, rfl⟩ | ⟨n, -, rfl⟩
    · exact .fsPush b s
    · exact .complete (.acceptFsu s) (fun hi => hi.sync.acceptFsu) _ _
    · exact .complete (by constructor <;> rfl) (fun _ => .of_empty rfl rfl rfl) _ _
    · exact .waitByte n s
  · right
    rcases h with ⟨n, -, rfl⟩ | ⟨b, -, rfl⟩ | ⟨-, rfl⟩ | ⟨-, -, rfl⟩ | ⟨-, hh, rfl⟩ | ⟨-, rfl⟩ | ⟨-, rfl⟩ | ⟨-, rfl⟩
    · exact .startApp hb n
    · exact .switchMode hb _
    · exact .accept hb nofun trivial
    · exact ⟨by constructor <;> rfl, fun hi => .of_idle rfl rfl (hi.acceptGsc hb).coolCnt, .inl rfl⟩
    · exact .accept hb nofun hh
    all_goals exact .accept hb nofun trivial

/-! #### Answers and ticks -/

/-- An operation that ends outside the cooldown and writes no `ctl_state`. -/
theorem GscStep.complete {s : State} {q : GscPhase} (hq : s.gscPhase = q) (hcool : q ≠ .smCool) (c : ResCode)
    (p : Payload) : GscStep s (Machine.complete .gsc c p s) :=
  ⟨by constructor <;> rfl, fun hi => .of_idle rfl rfl (hi.cool_zero (hq ▸ hcool)), .inl rfl⟩

theorem GscStep.startAppLoop {s : State} (hp : inStartApp s.gscPhase = true) : GscStep s (startAppLoop s) := by
  have hr (hi : GscInv s) : GscRunning s :=
    hi.running rfl (fun h => by rw [h] at hp; cases hp) (fun h => by rw [h] at hp; cases hp)
  rcases startAppLoop_cases s with ⟨-, -, h⟩ | ⟨hne, h⟩ <;> rw [h]
  · exact ⟨by constructor <;> rfl, fun hi => .of_idle rfl rfl (hr hi).coolCnt,
      .inr (.inr ⟨rfl, .inl ⟨hp, .inr ⟨_, rfl⟩⟩⟩)⟩
  · refine ⟨by constructor <;> rfl, fun hi => ?_, .inl rfl⟩
    have ⟨hbusy, hinvalid, hcool⟩ := hr hi
    have hr' : GscRunning (countTry s) := ⟨hbusy, hinvalid, hcool⟩
    exact hr'.toPhase nofun (.countTry (hi.tries_le hp).2 hne)

theorem GscStep.startAppAfterStatus {s : State} (hp : s.gscPhase = .saStatus) (sb : Byte) :
    GscStep s (startAppAfterStatus sb s) := by
  have hr (hi : GscInv s) : GscRunning s := hi.running hp nofun nofun
  rcases startAppAfterStatus_cases sb s with h | h | h | h <;> rw [h]
  · exact ⟨by constructor <;> rfl, fun hi => (hr hi).toPhase nofun (hi.tries_le (by rw [hp]; rfl)), .inl rfl⟩
  · exact ⟨by constructor <;> rfl, fun hi => .of_idle rfl rfl (hr hi).coolCnt,
      .inr (.inr ⟨rfl, .inl ⟨by rw [hp]; rfl, .inl ⟨_, rfl⟩⟩⟩)⟩
  · exact ⟨by constructor <;> rfl, fun hi => .of_idle rfl rfl (hr hi).coolCnt, .inr (.inl ⟨rfl, hp, _, rfl⟩)⟩
  · exact ⟨by constructor <;> rfl, fun hi => (hr hi).toPhase nofun (hi.tries_le (by rw [hp]; rfl)), .inl rfl⟩

/-- The mode read takes the branch whose facts its tests establish. -/
theorem GscStep.switchModeAfterRead {s : State} (hp : s.gscPhase = .smRead) (mb : Byte) :
    GscStep s (switchModeAfterRead mb s) := by
  have hr (hi : GscInv s) : GscRunning s := hi.running hp nofun nofun
  rcases switchModeAfterRead_cases mb s with h | ⟨hne, htrig, h⟩ | ⟨hne, htrig, h⟩ <;> rw [h] <;>
    refine ⟨by constructor <;> simp, fun hi => ?_, .inl (by simp)⟩ <;>
    have ⟨hbusy, hinvalid, hcool⟩ := hr hi
  · exact .of_idle rfl rfl hcool
  · have hr' : GscRunning (markCooldown (setCurMode (decodeMode mb) s)) := ⟨hbusy, hinvalid, hcool⟩
    exact hr'.toPhase nofun ⟨rfl, hne, (cooldownTrigger_iff _ _).mp htrig⟩
  · have hr' : GscRunning (setCurMode (decodeMode mb) s) := ⟨hbusy, hinvalid, hcool⟩
    have happlied : s.coolApplied = false := hi.facts_at hp
    rw [cooldownTrigger_iff] at htrig
    exact hr'.toPhase nofun ⟨hne, by simp [happlied], fun h => absurd h htrig⟩

theorem GscStep.switchModeAfterIdle {s : State} (hp : s.gscPhase = .smIdleWr) :
    GscStep s (switchModeAfterIdle s) := by
  refine ⟨by constructor <;> rfl, fun hi => ?_, .inl rfl⟩
  have ⟨hbusy, hinvalid, _⟩ := hi.running hp nofun nofun
  have hr : GscRunning (setCoolCnt 0#10 s) := ⟨hbusy, hinvalid, rfl⟩
  exact hr.toPhase nofun (hi.facts_at hp)

theorem GscStep.pollAfterStatus {s : State} (hp : s.gscPhase = .poStatus) (sb : Byte) :
    GscStep s (pollAfterStatus sb s) := by
  have hr (hi : GscInv s) : GscRunning s := hi.running hp nofun nofun
  rcases pollAfterStatus_cases sb s with h | h | h <;> rw [h]
  · exact ⟨by constructor <;> rfl, fun hi => (hr hi).toPhase nofun trivial, .inl rfl⟩
  · exact ⟨by constructor <;> rfl, fun hi => (hr hi).toPhase nofun trivial, .inl rfl⟩
  · exact .complete hp nofun _ _

theorem GscStep.swResetAfterWrite {s : State} (hp : s.gscPhase = .rsWr) : GscStep s (swResetAfterWrite s) :=
  ⟨by constructor <;> rfl, fun hi => .of_idle rfl rfl (hi.cool_zero (by rw [hp]; nofun)),
    .inr (.inr ⟨rfl, .inr ⟨hp, rfl⟩⟩)⟩

/-- Every continuation is a step of the GSC, but for the answered baseline read, which appends to the history. -/
theorem gscContinue_step {a : I2CAnswer} {s : State} {req : I2CRequest} (hr : gscRequest s = some req)
    (hf : answerFits req a = true) (ha : a ≠ .fail) :
    GscStep s (gscContinue a s) ∨
      ∃ w, s.gscPhase = .blRd ∧ a = .word w ∧ gscContinue a s = saveAfterRead w s := by
  rcases gscContinue_cases hr hf ha with ⟨b, hp, -, h⟩ | ⟨b, hp, -, h⟩ | ⟨hp, -, h⟩ | ⟨b, hp, -, h⟩ | ⟨hp, -, h⟩ |
    ⟨hp, -, h⟩ | ⟨b, hp, -, h⟩ | ⟨b, hp, -, h⟩ | ⟨b, hp, -, h⟩ | ⟨hp, -, h⟩ | ⟨w, hp, hw, h⟩ | ⟨hp, -, h⟩ | ⟨b, hp, -, h⟩ <;>
    rw [h]
  · exact .inl (.startAppAfterStatus hp b)
  · exact .inl (.of_logEvent (.startAppLoop (by rw [logEvent_gscPhase, hp]; rfl)))
  · exact .inl (.startAppLoop (by rw [hp]; rfl))
  · exact .inl (.switchModeAfterRead hp b)
  · exact .inl (.switchModeAfterIdle hp)
  · exact .inl (.complete hp nofun _ _)
  · exact .inl (.pollAfterStatus hp b)
  · exact .inl (.of_logEvent (.complete ((logEvent_gscPhase ..).trans hp) nofun _ _))
  · exact .inl (.complete hp nofun _ _)
  · exact .inl (.complete hp nofun _ _)
  · exact .inr ⟨w, hp, hw, rfl⟩
  · exact .inl (.swResetAfterWrite hp)
  · exact .inl (.complete hp nofun _ _)

/-- A step that does nothing. -/
theorem GscStep.refl (s : State) : GscStep s s := ⟨by constructor <;> rfl, id, .inl rfl⟩

theorem gscAnswer_step {a : I2CAnswer} {s t : State} (h : gscAnswer a s = .next t) :
    GscStep s t ∨ ∃ w ev, s.gscPhase = .blRd ∧ a = .word w ∧
      t = complete .gsc .ok (.saveInfo w) (appendHist w (logEvent ev s)) := by
  rcases gscAnswer_next h with ⟨-, rfl⟩ | ⟨req, hr, hf, ⟨-, rfl⟩ | ⟨ha, rfl⟩⟩
  · exact .inl (.refl _)
  · have hp : s.gscPhase ≠ .smCool := fun hp => by
      rw [(gscRequest_none_iff s).mpr (.inr hp)] at hr; cases hr
    exact .inl (.of_logEvent (.complete (logEvent_gscPhase ..) hp _ _))
  · rcases gscContinue_step (s := logEvent (.tx .gsc req a) s) hr hf ha with hs | ⟨w, hp, hw, hs⟩
    · exact .inl (.of_logEvent hs)
    · exact .inr ⟨w, _, hp, hw, hs⟩

/-- A tick cancels, counts below 600, or goes on to the target write with the cooldown marked. -/
theorem GscStep.cooldownTick {s : State} (hp : s.gscPhase = .smCool) : GscStep s (cooldownTick s) := by
  rcases cooldownTick_cases s with ⟨-, h⟩ | ⟨-, hlt, h⟩ | ⟨-, -, h⟩ <;> rw [h] <;>
    refine ⟨by constructor <;> rfl, fun hi => ?_, .inl rfl⟩
  · exact .of_idle rfl rfl rfl
  · exact ⟨hi.busy_iff, hi.result, fun _ => hlt, fun hne => absurd hp hne, hi.facts⟩
  · have hb := hi.busy_iff.mpr (by rw [hp]; nofun)
    have hr : GscRunning (setCoolCnt 0#10 s) := ⟨hb, hi.result hb, rfl⟩
    obtain ⟨happlied, hne, htrig⟩ : GscFacts s .smCool := hi.facts_at hp
    exact hr.toPhase nofun ⟨hne, fun _ => htrig, fun _ => happlied⟩

theorem gscTick_step {s t : State} (h : gscTick s = .next t) : GscStep s t := by
  rcases gscTick_next h with ⟨-, rfl⟩ | ⟨hp, rfl⟩
  · exact .refl _
  · exact .of_logEvent (.cooldownTick hp)

/-! ### What one delivered input is -/

theorem FsuStep.takeCmd {s t : State} (h : FsuStep (takeCmd s) t) : FsuStep s t := by
  obtain ⟨⟨⟩, hinv⟩ := h
  have hc : GscFrame s (Machine.takeCmd s) := by constructor <;> rfl
  exact ⟨by constructor <;> assumption, fun hi => hinv (hc.fsuInv hi)⟩

theorem GscStep.takeCmd {s t : State} (h : GscStep (takeCmd s) t) : GscStep s t := by
  obtain ⟨⟨⟩, hinv, hctl⟩ := h
  have hc : FsuFrame s (Machine.takeCmd s) := by constructor <;> rfl
  exact ⟨by constructor <;> assumption, fun hi => hinv (hc.gscInv hi), hctl⟩

/-- A delivered input is a step of one unit, the answered baseline read, a write of `dbuf`, or `rst`. -/
theorem deliver_step {e : Input} {s t : State} (h : deliver e s = .next t) :
    FsuStep s t ∨ GscStep s t ∨
    (∃ w ev, s.gscPhase = .blRd ∧ e = .i2c (.word w) ∧
      t = complete .gsc .ok (.saveInfo w) (appendHist w (logEvent ev s))) ∨
    (∃ i b, e = .writeDbuf i b ∧ t = hostWriteDbuf i b s) ∨
    (e = .rst ∧ t = blockReset s) := by
  rcases deliver_next h with ⟨w, i, -, -, hx⟩ | ⟨w, err, -, -, rfl⟩ | hw | ⟨v, -, rfl⟩ | ⟨a, rfl, hx⟩ |
    ⟨a, -, hx⟩ | ⟨-, hx⟩ | hrst
  · exact (exec_step hx).imp .takeCmd fun h => .inl h.takeCmd
  · exact .inl (.of_frames (by constructor <;> rfl) (by constructor <;> rfl))
  · exact .inr (.inr (.inr (.inl hw)))
  · exact .inl (.of_frames (by constructor <;> rfl) (by constructor <;> rfl))
  · rcases gscAnswer_step hx with hs | ⟨w, ev, hp, rfl, ht⟩
    · exact .inr (.inl hs)
    · exact .inr (.inr (.inl ⟨w, ev, hp, rfl, ht⟩))
  · exact .inl (fsuAnswer_step hx)
  · exact .inr (.inl (gscTick_step hx))
  · exact .inr (.inr (.inr (.inr hrst)))

/-- A step that changes anything delivers a command from the latch or the next input. -/
theorem step_next_deliver {s t : State} (h : step s = .next t) :
    1 ≤ s.calCap ∧ (t = s ∨ (∃ w, deliver (.writeCmd w) s = .next t) ∨
      ∃ e rest, s.inputs = e :: rest ∧ deliver e (setInputs rest s) = .next t) := by
  obtain ⟨hcap, ⟨w, hw, hx⟩ | ⟨-, -, ht⟩ | ⟨e, rest, -, hin, hx⟩⟩ := step_next h
  · have hs : hostWriteCmd w s = s := by rw [hostWriteCmd, ← hw]
    exact ⟨hcap, .inr (.inl ⟨w, by rw [deliver, hs]; exact hx⟩)⟩
  · exact ⟨hcap, .inl ht⟩
  · exact ⟨hcap, .inr (.inr ⟨e, rest, hin, hx⟩)⟩

theorem deliver_dbuf {e : Input} {s t : State} (h : deliver e s = .next t) :
    t.dbuf = s.dbuf ∨ e = .rst ∨ ∃ i b, e = .writeDbuf i b := by
  rcases deliver_step h with hs | hs | ⟨w, ev, -, -, rfl⟩ | ⟨i, b, he, -⟩ | ⟨he, -⟩
  · exact .inl hs.frame.dbuf
  · exact .inl hs.frame.dbuf
  · exact .inl (by simp)
  · exact .inr (.inr ⟨i, b, he⟩)
  · exact .inr (.inl he)

theorem deliver_hist {e : Input} {s t : State} (h : deliver e s = .next t) :
    t.hist = s.hist ∨
      ∃ w, s.gscPhase = .blRd ∧ e = .i2c (.word w) ∧ t.hist = histAppend s.calCap s.hist w := by
  rcases deliver_step h with hs | hs | ⟨w, ev, hp, he, rfl⟩ | ⟨i, b, -, rfl⟩ | ⟨-, rfl⟩
  · exact .inl hs.frame.hist
  · exact .inl hs.frame.hist
  · exact .inr ⟨w, hp, he, by simp⟩
  · exact .inl rfl
  · exact .inl rfl

theorem deliver_ctlState {e : Input} {s t : State} (h : deliver e s = .next t) :
    t.ctlState = s.ctlState ∨ CtlWritten s t ∨ (e = .rst ∧ t.ctlState = .appNotStarted) := by
  rcases deliver_step h with hs | hs | ⟨w, ev, -, -, rfl⟩ | ⟨i, b, -, rfl⟩ | ⟨he, rfl⟩
  · exact .inl hs.frame.ctlState
  · exact hs.ctl.imp_right .inl
  · exact .inl (by simp)
  · exact .inl rfl
  · exact .inr (.inr ⟨he, rfl⟩)

theorem deliver_calCap {e : Input} {s t : State} (h : deliver e s = .next t) : t.calCap = s.calCap := by
  rcases deliver_next h with ⟨w, i, -, -, hx⟩ | ⟨w, err, -, -, rfl⟩ | ⟨i, b, -, rfl⟩ | ⟨v, -, rfl⟩ | ⟨a, -, hx⟩ |
    ⟨a, -, hx⟩ | ⟨-, hx⟩ | ⟨-, rfl⟩
  · exact (exec_keeps hx).calCap
  · rfl
  · rfl
  · rfl
  · exact (gscAnswer_keeps hx).calCap
  · exact (fsuAnswer_keeps hx).calCap
  · exact (gscTick_keeps hx).calCap
  · rfl

theorem deliver_fsuInv {e : Input} {s t : State} (hi : FsuInv s) (h : deliver e s = .next t) : FsuInv t := by
  rcases deliver_step h with hs | hs | ⟨w, ev, -, -, rfl⟩ | ⟨i, b, -, rfl⟩ | ⟨-, rfl⟩
  · exact hs.inv hi
  · exact hs.frame.fsuInv hi
  · apply hi.congr <;> simp
  · apply hi.congr <;> rfl
  · exact .of_idle (.of_empty rfl rfl rfl) rfl rfl

theorem deliver_gscInv {e : Input} {s t : State} (hi : GscInv s) (h : deliver e s = .next t) : GscInv t := by
  rcases deliver_step h with hs | hs | ⟨w, ev, hp, -, rfl⟩ | ⟨i, b, -, rfl⟩ | ⟨-, rfl⟩
  · exact hs.frame.gscInv hi
  · exact hs.inv hi
  · exact .of_idle (by simp) (by simp) (by simp [hi.cool_zero, hp])
  · obtain ⟨hbusy, hres, hlt, hzero, hfacts⟩ := hi
    exact ⟨hbusy, hres, hlt, hzero, hfacts⟩
  · exact .of_idle rfl rfl rfl

theorem deliver_hist_le {e : Input} {s t : State} (hle : s.hist.length ≤ s.calCap) (h : deliver e s = .next t) :
    t.hist.length ≤ t.calCap := by
  rw [deliver_calCap h]
  rcases deliver_hist h with hh | ⟨w, -, -, hh⟩ <;> rw [hh]
  · exact hle
  · exact histAppend_length_le hle w

theorem deliver_inv {e : Input} {s t : State} (hi : Inv s) (h : deliver e s = .next t) : Inv t := by
  obtain ⟨⟨hcap, hhist⟩, hf, hg⟩ := (inv_iff s).mp hi
  exact (inv_iff t).mpr
    ⟨⟨(deliver_calCap h).symm ▸ hcap, deliver_hist_le hhist h⟩, deliver_fsuInv hf h, deliver_gscInv hg h⟩

/-- The inputs to come are no part of the invariant. -/
theorem Inv.setInputs {s : State} (h : Inv s) (es : List Input) : Inv (setInputs es s) := by
  obtain ⟨⟩ := h
  constructor <;> assumption

/-! ### The obligations -/

/-- Settles O59: a delivered input keeps each unit's part of the invariant and the bound on the history. -/
theorem stepKeepsInvariant : Obligations.StepKeepsInvariant := by
  intro s t hi h
  obtain ⟨-, rfl | ⟨w, hd⟩ | ⟨e, rest, -, hd⟩⟩ := step_next_deliver h
  · exact hi
  · exact deliver_inv hi hd
  · exact deliver_inv (hi.setInputs rest) hd

/-- Settles O50: the history is in the frame of every step but the answered baseline read. -/
theorem onlySaveWritesHistory : Obligations.OnlySaveWritesHistory := by
  intro s t h hne
  obtain ⟨-, rfl | ⟨w, hd⟩ | ⟨e, rest, hin, hd⟩⟩ := step_next_deliver h
  · exact absurd rfl hne
  · rcases deliver_hist hd with hh | ⟨_, -, he, -⟩
    · exact absurd hh hne
    · cases he
  · rcases deliver_hist hd with hh | ⟨w, hp, rfl, -⟩
    · exact absurd hh hne
    · exact ⟨w, rest, hp, hin⟩

/-- Settles O51: the steps of the GSC write `ctl_state` by its rules only, and beside them only `rst` does. -/
theorem onlyHandshakeAndResetsWriteCtlState : Obligations.OnlyHandshakeAndResetsWriteCtlState := by
  intro s t _ h hne
  obtain ⟨-, rfl | ⟨w, hd⟩ | ⟨e, rest, hin, hd⟩⟩ := step_next_deliver h
  · exact absurd rfl hne
  · rcases deliver_ctlState hd with hc | hc | ⟨he, -⟩
    · exact absurd hc hne
    · exact Or.imp_right (And.imp_right (Or.imp_right .inl)) hc
    · cases he
  · rcases deliver_ctlState hd with hc | hc | ⟨rfl, hc⟩
    · exact absurd hc hne
    · exact Or.imp_right (And.imp_right (Or.imp_right .inl)) hc
    · exact .inr ⟨hc, .inr (.inr ⟨rest, hin⟩)⟩

/-- Settles O55: `dbuf` is in the frame of every step but a HOST write of it and `rst`. -/
theorem onlyHostWritesDbuf : Obligations.OnlyHostWritesDbuf := by
  refine ⟨fun s i b hr => ⟨step_withInput hr _, Vector.getElem_set_self ..⟩, fun s t h hne => ?_⟩
  obtain ⟨-, rfl | ⟨w, hd⟩ | ⟨e, rest, hin, hd⟩⟩ := step_next_deliver h
  · exact absurd rfl hne
  · rcases deliver_dbuf hd with hb | he | ⟨_, _, he⟩
    · exact absurd hb hne
    · cases he
    · cases he
  · rcases deliver_dbuf hd with hb | he
    · exact absurd hb hne
    · exact ⟨e, rest, hin, he⟩

/-- Each bit of BSTAT by its place in the concatenation. -/
theorem bstat_bits (s : State) :
    (bstat s).getLsbD 0 = s.gscBusy ∧ (bstat s).getLsbD 1 = s.fsuBusy ∧
    (bstat s).getLsbD 2 = ctlStateBit s.ctlState ∧ (bstat s).getLsbD 3 = s.resGsc.valid ∧
    (bstat s).getLsbD 4 = s.resFsu.valid ∧ (bstat s).getLsbD 5 = s.resCdc.valid ∧
    (bstat s).getLsbD 6 = cooling s ∧ (bstat s).getLsbD 7 = false := by
  refine ⟨?_, ?_, ?_, ?_, ?_, ?_, ?_, ?_⟩ <;> simp only [bstat, BitVec.getLsbD_append] <;> simp

theorem bstat_eq_zero {s : State} (hg : s.gscBusy = false) (hf : s.fsuBusy = false) (hp : s.gscPhase = .idle)
    (hctl : s.ctlState = .appNotStarted) (hrg : s.resGsc.valid = false) (hrf : s.resFsu.valid = false)
    (hrc : s.resCdc.valid = false) : bstat s = 0x00#8 := by
  rw [bstat, cooling, hg, hf, hp, hctl, hrg, hrf, hrc]; rfl

theorem bstat_powerOn (cap : Nat) (h : List U16) (stop : Bool) (u : Unspecified) :
    bstat (State.powerOn cap h stop u) = 0x00#8 := bstat_eq_zero rfl rfl rfl rfl rfl rfl rfl

theorem ctlStateBit_iff (c : CtlState) : ctlStateBit c = true ↔ c = .appRunning := by cases c <;> decide

theorem cooling_iff (s : State) : cooling s = true ↔ s.gscPhase = .smCool := by simp [cooling]

/-- Settles O9: the bits by their places, and the flags that two of them stand for. -/
theorem bstatBits : Obligations.BstatBits := by
  refine ⟨fun s => ?_, bstat_powerOn⟩
  obtain ⟨h0, h1, h2, h3, h4, h5, h6, h7⟩ := bstat_bits s
  rw [h2, h6]
  exact ⟨h0, h1, ctlStateBit_iff _, h3, h4, h5, cooling_iff s, h7⟩

/-- The transaction depends on the phase, and beside it on the target mode and the history only. -/
theorem gscRequest_of_phase {s : State} {p : GscPhase} (hp : s.gscPhase = p) :
    gscRequest s = gscRequest (toPhase p s) := by
  subst hp; rfl

/-- Settles O32: `gscRequest` phase by phase; the last entry of a history is the word that `G_BL_WR` writes. -/
theorem phaseTransactions : Obligations.PhaseTransactions := by
  intro s
  have h {p : GscPhase} (hp : s.gscPhase = p) := gscRequest_of_phase hp
  refine ⟨h, h, h, h, h, h, h, h, h, h, h, fun hp w hw => ?_, h, h, h⟩
  calc gscRequest s
    _ = some (.writeWord 0x11#8 (s.hist.getLast?.getD 0#16)) := h hp
    _ = some (.writeWord 0x11#8 w) := by rw [hw, Option.getD_some]

/-- Settles O56: every value stands in the definition of the power-on state. -/
theorem powerOnValues : Obligations.PowerOnValues :=
  fun _ _ _ _ => ⟨rfl, rfl, rfl, rfl, rfl, rfl, bstat_powerOn .., rfl, rfl, rfl, rfl, rfl, rfl, rfl, rfl, rfl, rfl, rfl⟩

/-- Settles O58: both units are idle and FrameSync is empty, and the log is asked only in two other phases. -/
theorem powerOnMeetsInvariant : Obligations.PowerOnMeetsInvariant := by
  intro cap h stop u hcap hlen
  refine ⟨(inv_iff _).mpr ⟨⟨hcap, hlen⟩, ?_, ?_⟩, nofun, nofun⟩
  · exact .of_idle (.of_empty rfl rfl rfl) rfl rfl
  · exact .of_idle rfl rfl rfl

end Sys2Proof.Machine
end

section
/-! Obligations of the two transports (20_memory.md). `merge L f g` puts the FSU of `f` beside everything else of `g`. An
I2C answer or a tick works on `g` alone and a UART answer on `f` alone, whatever stands beside it, and each only appends to
the log `L`; so the two commute but for the order of the log, and what they append is known entry by entry. -/

namespace Sys2Proof.Machine

open Sys2Proof

/-! ### Log entries -/

/-- A transaction in the log is the GSC's, is one of the register map, and its answer fits. -/
def MapEntry : LogEvent → Prop
  | .tx u req a => u = .gsc ∧ mapTransaction req ∧ answerFits req a = true
  | .rx _ | .deviceFault _ | .tick _ | .done _ _ => True

/-- An entry of the GSC's part of the log, or (`gsc = false`) of the other part. -/
def UnitEntry (gsc : Bool) (ev : LogEvent) : Prop := isGscEvent ev = gsc ∧ MapEntry ev

/-- Between the states the log grows by entries of the register map only. -/
def AppendsMapEntries (s t : State) : Prop := ∃ new, t.log = s.log ++ new ∧ ∀ ev ∈ new, MapEntry ev

theorem AppendsMapEntries.of_log_eq {s t : State} (h : t.log = s.log) : AppendsMapEntries s t :=
  ⟨[], by rw [h, List.append_nil], nofun⟩

theorem AppendsMapEntries.of_done {s t : State} {u : CmdUnit} {c : ResCode} (h : t.log = s.log ++ [.done u c]) :
    AppendsMapEntries s t :=
  ⟨_, h, List.forall_mem_singleton.mpr trivial⟩

/-- Every transaction the GSC waits for is one of the register map. -/
theorem gscRequest_mapTransaction {s : State} {req : I2CRequest} (h : gscRequest s = some req) :
    mapTransaction req := by
  unfold gscRequest at h
  cases hp : s.gscPhase <;> rw [hp] at h <;> cases h <;> simp [mapTransaction, Config.regStatus, Config.regError,
    Config.regAppStart, Config.regMeasMode, Config.regResult, Config.regBaseline, Config.regSwReset, Config.resetSeq,
    Config.regHwId]

/-- Entries that a filter drops may stand before or after those it keeps. -/
theorem filter_append_swap {p : LogEvent → Bool} {new : List LogEvent} (h : ∀ ev ∈ new, p ev = false)
    (old new' : List LogEvent) : (old ++ new ++ new').filter p = (old ++ new' ++ new).filter p := by
  have hnil : new.filter p = [] := List.filter_eq_nil_iff.mpr fun ev hev => by simp [h ev hev]
  simp only [List.filter_append, hnil, List.append_nil]

/-! ### Two units side by side -/

/-- The FSU of `f` beside everything else of `g`, with the log `L`. -/
def merge (L : List LogEvent) (f g : State) : State :=
  { g with
    resFsu := f.resFsu, fsuBusy := f.fsuBusy, fsuPhase := f.fsuPhase, prMax := f.prMax
    win := f.win, wrPtr := f.wrPtr, fill := f.fill, sinceCnt := f.sinceCnt, log := L }

/-- From `g` the transition `D` answers `g'`, and appends the same entries of the GSC beside every FSU and to every
log. -/
def GscWorks (D : State → Host.Outcome State Fault Refusal) (g g' : State) : Prop :=
  ∃ new, (∀ ev ∈ new, UnitEntry true ev) ∧ ∀ L f, D (merge L f g) = .next (merge (L ++ new) f g')

/-- From `f` the transition `D` answers `f'`, and appends the same entries of the FSU beside every rest of the block and
to every log. -/
def FsuWorks (D : State → Host.Outcome State Fault Refusal) (f f' : State) : Prop :=
  ∃ new, (∀ ev ∈ new, UnitEntry false ev) ∧ ∀ L g, D (merge L f g) = .next (merge (L ++ new) f' g)

/-- A state is itself beside itself, so what a transition does beside every FSU it does there. -/
theorem eq_merge_of_gsc {D : State → Host.Outcome State Fault Refusal} {s t : State} {new : List LogEvent}
    (hwork : ∀ L f, D (merge L f s) = .next (merge (L ++ new) f t)) (hD : D s = .next t) :
    t = merge (s.log ++ new) s t :=
  Host.Outcome.next.inj (hD.symm.trans (hwork s.log s))

@[inherit_doc eq_merge_of_gsc]
theorem eq_merge_of_fsu {D : State → Host.Outcome State Fault Refusal} {s t : State} {new : List LogEvent}
    (hwork : ∀ L g, D (merge L s g) = .next (merge (L ++ new) t g)) (hD : D s = .next t) :
    t = merge (s.log ++ new) t s :=
  Host.Outcome.next.inj (hD.symm.trans (hwork s.log s))

theorem GscWorks.appends {D : State → Host.Outcome State Fault Refusal} {s t : State} (h : GscWorks D s t)
    (hD : D s = .next t) : AppendsMapEntries s t := by
  obtain ⟨new, hnew, hwork⟩ := h
  exact ⟨new, congrArg State.log (eq_merge_of_gsc hwork hD), fun ev hev => (hnew ev hev).2⟩

theorem FsuWorks.appends {D : State → Host.Outcome State Fault Refusal} {s t : State} (h : FsuWorks D s t)
    (hD : D s = .next t) : AppendsMapEntries s t := by
  obtain ⟨new, hnew, hwork⟩ := h
  exact ⟨new, congrArg State.log (eq_merge_of_fsu hwork hD), fun ev hev => (hnew ev hev).2⟩

/-- Both orders end in the FSU of the one step beside the rest of the other; only the order in the log differs. -/
theorem works_commute {F G : State → Host.Outcome State Fault Refusal} {s f g : State} (hf : FsuWorks F s f)
    (hg : GscWorks G s g) (hF : F s = .next f) (hG : G s = .next g) :
    ∃ newF newG, (∀ ev ∈ newF, isGscEvent ev = false) ∧ (∀ ev ∈ newG, isGscEvent ev = true) ∧
      G f = .next (merge (s.log ++ newF ++ newG) f g) ∧ F g = .next (merge (s.log ++ newG ++ newF) f g) := by
  obtain ⟨newF, hnewF, hworkF⟩ := hf
  obtain ⟨newG, hnewG, hworkG⟩ := hg
  have hf : f = merge (s.log ++ newF) f s := eq_merge_of_fsu hworkF hF
  have hg : g = merge (s.log ++ newG) s g := eq_merge_of_gsc hworkG hG
  refine ⟨newF, newG, fun ev hev => (hnewF ev hev).1, fun ev hev => (hnewG ev hev).1, ?_, ?_⟩
  · exact (congrArg G hf).trans (hworkG _ f)
  · exact (congrArg F hg).trans (hworkF _ g)

/-! ### The GSC beside any FSU -/

/-- At `g` the operation reads and writes nothing of the FSU, and appends the same entries of the GSC to every log. -/
def GscLocalAt (op : State → State) (g : State) : Prop :=
  ∃ new, (∀ ev ∈ new, UnitEntry true ev) ∧ ∀ L f, op (merge L f g) = merge (L ++ new) f (op g)

/-- The operation is the GSC's own at every state. -/
def GscLocal (op : State → State) : Prop := ∀ g, GscLocalAt op g

theorem GscLocal.silent {op : State → State} (h : ∀ L f g, op (merge L f g) = merge L f (op g)) : GscLocal op :=
  fun g => ⟨[], nofun, fun L f => by rw [List.append_nil, h]⟩

theorem GscLocal.logs {op : State → State} (ev : State → LogEvent) (hev : ∀ g, UnitEntry true (ev g))
    (h : ∀ L f g, op (merge L f g) = merge (L ++ [ev g]) f (op g)) : GscLocal op :=
  fun g => ⟨[ev g], List.forall_mem_singleton.mpr (hev g), fun L f => h L f g⟩

theorem GscLocal.completes {op : State → State} (c : ResCode)
    (h : ∀ L f g, op (merge L f g) = merge (L ++ [.done .gsc c]) f (op g)) : GscLocal op :=
  .logs (fun _ => .done .gsc c) (fun _ => ⟨rfl, trivial⟩) h

theorem GscLocal.comp {op op' : State → State} (h' : GscLocal op') (h : GscLocal op) :
    GscLocal fun s => op' (op s) := by
  intro g
  obtain ⟨new, hnew, hop⟩ := h g
  obtain ⟨new', hnew', hop'⟩ := h' (op g)
  refine ⟨new ++ new', fun ev hev => (List.mem_append.mp hev).elim (hnew ev) (hnew' ev), fun L f => ?_⟩
  calc op' (op (merge L f g))
    _ = merge (L ++ new ++ new') f (op' (op g)) := by rw [hop, hop']
    _ = merge (L ++ (new ++ new')) f (op' (op g)) := by rw [List.append_assoc]

/-- The two operations need to agree only at the state itself, beside any FSU. -/
theorem GscLocal.congr_at {op : State → State} (h : GscLocal op) {op' : State → State} {g : State}
    (heq : ∀ L f, op' (merge L f g) = op (merge L f g)) : GscLocalAt op' g := by
  obtain ⟨new, hnew, hop⟩ := h g
  have hg : op' g = op g := heq g.log g
  exact ⟨new, hnew, fun L f => by rw [heq, hop, hg]⟩

theorem GscLocal.ite {c : State → Prop} [DecidablePred c] {op op' : State → State} (h : GscLocal op)
    (h' : GscLocal op') (hc : ∀ L f g, c (merge L f g) ↔ c g) : GscLocal fun s => if c s then op s else op' s := by
  intro g
  by_cases hg : c g
  · exact h.congr_at fun L f => if_pos ((hc L f g).mpr hg)
  · exact h'.congr_at fun L f => if_neg (mt (hc L f g).mp hg)

theorem startAppLoop_local : GscLocal startAppLoop :=
  .ite (.completes .appStartTimeout fun _ _ _ => rfl) (.silent fun _ _ _ => rfl) fun _ _ _ => Iff.rfl

theorem startAppAfterStatus_local (sb : Byte) : GscLocal (startAppAfterStatus sb) :=
  .ite (.silent fun _ _ _ => rfl)
    (.ite (.completes .noValidApplication fun _ _ _ => rfl)
      (.ite (.completes .ok fun _ _ _ => rfl) (.silent fun _ _ _ => rfl) fun _ _ _ => Iff.rfl) fun _ _ _ => Iff.rfl)
    fun _ _ _ => Iff.rfl

theorem deviceFault_local (flags : ErrorFlags) : GscLocal (logEvent (.deviceFault flags)) :=
  .logs (fun _ => .deviceFault flags) (fun _ => ⟨rfl, trivial⟩) fun _ _ _ => rfl

theorem startAppAfterError_local (eb : Byte) : GscLocal (startAppAfterError eb) :=
  startAppLoop_local.comp (deviceFault_local (decodeError eb))

theorem switchModeAfterRead_local (mb : Byte) : GscLocal (switchModeAfterRead mb) :=
  .ite (.completes .ok fun _ _ _ => rfl)
    (.ite (.silent fun _ _ _ => rfl) (.silent fun _ _ _ => rfl) fun _ _ _ => Iff.rfl) fun _ _ _ => Iff.rfl

theorem pollAfterStatus_local (sb : Byte) : GscLocal (pollAfterStatus sb) :=
  .ite (.silent fun _ _ _ => rfl)
    (.ite (.silent fun _ _ _ => rfl) (.completes .none fun _ _ _ => rfl) fun _ _ _ => Iff.rfl) fun _ _ _ => Iff.rfl

theorem pollAfterError_local (eb : Byte) : GscLocal (pollAfterError eb) :=
  .comp (op' := complete .gsc .deviceFault (.deviceFault (decodeError eb)))
    (.completes .deviceFault fun _ _ _ => rfl) (deviceFault_local (decodeError eb))

theorem cooldownTick_local : GscLocal cooldownTick :=
  .ite (.completes .cancelled fun _ _ _ => rfl)
    (.ite (.silent fun _ _ _ => rfl) (.silent fun _ _ _ => rfl) fun _ _ _ => Iff.rfl) fun _ _ _ => Iff.rfl

theorem onByte_local {next : Byte → State → State} (h : ∀ b, GscLocal (next b)) (a : I2CAnswer) :
    GscLocal fun s => onByte a s next := by
  cases a with
  | byte b => exact h b
  | block _ | word _ | ack | fail => exact .silent fun _ _ _ => rfl

theorem onBlock_local {next : Vector Byte 8 → State → State} (h : ∀ bs, GscLocal (next bs)) (a : I2CAnswer) :
    GscLocal fun s => onBlock a s next := by
  cases a with
  | block bs => exact h bs
  | byte _ | word _ | ack | fail => exact .silent fun _ _ _ => rfl

theorem onWord_local {next : U16 → State → State} (h : ∀ w, GscLocal (next w)) (a : I2CAnswer) :
    GscLocal fun s => onWord a s next := by
  cases a with
  | word w => exact h w
  | byte _ | block _ | ack | fail => exact .silent fun _ _ _ => rfl

theorem onAck_local {next : State → State} (h : GscLocal next) (a : I2CAnswer) :
    GscLocal fun s => onAck a s next := by
  cases a with
  | ack => exact h
  | byte _ | block _ | word _ | fail => exact .silent fun _ _ _ => rfl

/-- In a phase whose continuation is local, the GSC goes on locally. -/
theorem gscContinue_localAt {a : I2CAnswer} {op : State → State} {g : State} {p : GscPhase} (hp : g.gscPhase = p)
    (hop : GscLocal op)
    (h : ∀ s, s.gscPhase = p → gscContinue a s = op s := by intro s hs; rw [gscContinue, hs]) :
    GscLocalAt (gscContinue a) g :=
  hop.congr_at fun L f => h (merge L f g) hp

/-- Each phase has one continuation, and each continuation is local. -/
theorem gscContinue_local (a : I2CAnswer) : GscLocal (gscContinue a) := by
  intro g
  cases hp : g.gscPhase with
  | idle | smCool => exact gscContinue_localAt hp (op := fun s => s) (.silent fun _ _ _ => rfl)
  | saStatus => exact gscContinue_localAt hp (onByte_local startAppAfterStatus_local a)
  | saErr => exact gscContinue_localAt hp (onByte_local startAppAfterError_local a)
  | saStart => exact gscContinue_localAt hp (onAck_local (next := startAppAfterStart) startAppLoop_local a)
  | smRead => exact gscContinue_localAt hp (onByte_local switchModeAfterRead_local a)
  | smIdleWr =>
    exact gscContinue_localAt hp (onAck_local (next := switchModeAfterIdle) (.silent fun _ _ _ => rfl) a)
  | smTgtWr =>
    exact gscContinue_localAt hp (onAck_local (next := switchModeAfterTarget) (.completes .ok fun _ _ _ => rfl) a)
  | poStatus => exact gscContinue_localAt hp (onByte_local pollAfterStatus_local a)
  | poErr => exact gscContinue_localAt hp (onByte_local pollAfterError_local a)
  | poResult =>
    exact gscContinue_localAt hp (onBlock_local (next := pollAfterResult) (fun _ => .completes .ok fun _ _ _ => rfl) a)
  | blWr => exact gscContinue_localAt hp (onAck_local (next := loadAfterWrite) (.completes .ok fun _ _ _ => rfl) a)
  | blRd =>
    exact gscContinue_localAt hp (onWord_local (next := saveAfterRead) (fun _ => .completes .ok fun _ _ _ => rfl) a)
  | rsWr => exact gscContinue_localAt hp (onAck_local (next := swResetAfterWrite) (.completes .ok fun _ _ _ => rfl) a)
  | idRd =>
    exact gscContinue_localAt hp (onByte_local (next := checkHwIdAfterRead) (fun _ => .completes .ok fun _ _ _ => rfl) a)

/-- A step that runs a local operation at this state, beside any FSU. -/
theorem GscLocal.works {op : State → State} (h : GscLocal op) {D : State → Host.Outcome State Fault Refusal} {g : State}
    (hD : ∀ L f, D (merge L f g) = .next (op (merge L f g))) : GscWorks D g (op g) := by
  obtain ⟨new, hnew, hop⟩ := h g
  exact ⟨new, hnew, fun L f => by rw [hD, hop]⟩

theorem gscAnswer_of_none {a : I2CAnswer} {s : State} (h : gscRequest s = none) : gscAnswer a s = .next s := by
  rw [gscAnswer, h]

theorem gscAnswer_of_fail {s : State} {req : I2CRequest} (h : gscRequest s = some req) :
    gscAnswer .fail s = .next (complete .gsc .transportError (.transportError (requestKind req) (some (requestReg req)))
      (logEvent (.tx .gsc req .fail) s)) := by
  simp [gscAnswer, h]

theorem gscAnswer_of_fits {a : I2CAnswer} {s : State} {req : I2CRequest} (h : gscRequest s = some req)
    (hf : answerFits req a = true) (ha : a ≠ .fail) :
    gscAnswer a s = .next (gscContinue a (logEvent (.tx .gsc req a) s)) := by
  simp [gscAnswer, h, hf, ha]

theorem gscAnswer_works {a : I2CAnswer} {g g' : State} (h : gscAnswer a g = .next g') :
    GscWorks (gscAnswer a) g g' := by
  rcases gscAnswer_next h with ⟨hr, rfl⟩ | ⟨req, hr, hf, hcase⟩
  · exact (GscLocal.silent (op := id) fun _ _ _ => rfl).works fun _ _ => gscAnswer_of_none hr
  · have htx : GscLocal (logEvent (.tx .gsc req a)) :=
      .logs (fun _ => .tx .gsc req a) (fun _ => ⟨rfl, rfl, gscRequest_mapTransaction hr, hf⟩) fun _ _ _ => rfl
    rcases hcase with ⟨rfl, rfl⟩ | ⟨ha, rfl⟩
    · exact (GscLocal.comp (.completes .transportError fun _ _ _ => rfl) htx).works fun L f => gscAnswer_of_fail hr
    · exact ((gscContinue_local a).comp htx).works fun L f => gscAnswer_of_fits hr hf ha

theorem gscTick_works {g g' : State} (h : gscTick g = .next g') : GscWorks gscTick g g' := by
  rcases gscTick_next h with ⟨hp, rfl⟩ | ⟨hp, rfl⟩
  · exact (GscLocal.silent (op := id) fun _ _ _ => rfl).works fun L f => if_neg hp
  · have htick : GscLocal fun s => logEvent (.tick s.stop) s :=
      .logs (fun s => .tick s.stop) (fun _ => ⟨rfl, trivial⟩) fun _ _ _ => rfl
    exact (cooldownTick_local.comp htick).works fun L f => if_pos hp

/-! ### The FSU beside any rest of the block -/

theorem pushByte_merge (b : Byte) (L : List LogEvent) (f g : State) :
    pushByte b (merge L f g) = (merge L (pushByte b f).1 g, (pushByte b f).2) := by
  have hv : windowValid (shiftIn b (merge L f g)) = windowValid (shiftIn b f) := rfl
  unfold pushByte
  rw [hv]
  split <;> rfl

/-- The tests after a push log at most the completion. -/
theorem prTests_merge (f : State) (o : Option Frame) :
    ∃ new, (∀ ev ∈ new, UnitEntry false ev) ∧
      ∀ L g, prTests (merge L f g, o) = merge (L ++ new) (prTests (f, o)) g := by
  have hdone (c : ResCode) : ∀ ev ∈ [LogEvent.done .fsu c], UnitEntry false ev :=
    List.forall_mem_singleton.mpr ⟨rfl, trivial⟩
  cases o with
  | some F => exact ⟨_, hdone .ok, fun L g => rfl⟩
  | none =>
    have hs (L : List LogEvent) (g : State) : isStalled (merge L f g).prMax (merge L f g) = isStalled f.prMax f := rfl
    by_cases h : isStalled f.prMax f = true
    · exact ⟨_, hdone .framingFault, fun L g => by simp only [prTests, hs, h, if_true]; rfl⟩
    · exact ⟨[], nofun, fun L g => by simp only [prTests, hs, h, List.append_nil]; rfl⟩

theorem fsuAnswer_of_idle {a : UartAnswer} {s : State} (h : s.fsuPhase = .idle) : fsuAnswer a s = .next s := by
  simp [fsuAnswer, h]

theorem fsuAnswer_of_fail {s : State} (h : s.fsuPhase = .prByte) :
    fsuAnswer .fail s =
      .next (complete .fsu .transportError (.transportError .readOneByte none) (logEvent (.rx .fail) s)) := by
  simp [fsuAnswer, h]

theorem fsuAnswer_of_byte {b : Byte} {s : State} (h : s.fsuPhase = .prByte) :
    fsuAnswer (.byte b) s = .next (prTests (pushByte b (logEvent (.rx (.byte b)) s))) := by
  simp [fsuAnswer, h]

theorem fsuAnswer_works {a : UartAnswer} {f f' : State} (h : fsuAnswer a f = .next f') :
    FsuWorks (fsuAnswer a) f f' := by
  have hrx : UnitEntry false (.rx a) := ⟨rfl, trivial⟩
  rcases fsuAnswer_next h with ⟨hp, rfl⟩ | ⟨hp, rfl, rfl⟩ | ⟨b, hp, rfl, rfl⟩
  · exact ⟨[], nofun, fun L g => by rw [List.append_nil]; exact fsuAnswer_of_idle hp⟩
  · refine ⟨[.rx .fail, .done .fsu .transportError], ?_, fun L g => ?_⟩
    · exact List.forall_mem_cons.mpr ⟨hrx, List.forall_mem_singleton.mpr ⟨rfl, trivial⟩⟩
    · rw [List.append_cons]; exact fsuAnswer_of_fail hp
  · obtain ⟨new, hnew, htests⟩ := prTests_merge (pushByte b (logEvent (.rx (.byte b)) f)).1
      (pushByte b (logEvent (.rx (.byte b)) f)).2
    refine ⟨.rx (.byte b) :: new, List.forall_mem_cons.mpr ⟨hrx, hnew⟩, fun L g => ?_⟩
    have hlog : logEvent (.rx (.byte b)) (merge L f g) = merge (L ++ [.rx (.byte b)]) (logEvent (.rx (.byte b)) f) g := rfl
    rw [fsuAnswer_of_byte (s := merge L f g) hp, hlog, pushByte_merge, htests, List.append_cons L _ new]

/-! ### What a step appends to the log -/

theorem pushEnd_log (b : Byte) (s : State) : ∃ c, (pushEnd (pushByte b s)).log = s.log ++ [.done .fsu c] := by
  rcases pushByte_cases b s with ⟨-, h⟩ | ⟨-, h⟩ <;> rw [h] <;> exact ⟨_, rfl⟩

theorem exec_appends {i : Instr} {s t : State} (h : exec i s = .next t) : AppendsMapEntries s t := by
  rcases exec_next h with ⟨-, c, p, -, rfl⟩ | ⟨-, h⟩ | ⟨-, h⟩
  · exact .of_done rfl
  · rcases h with ⟨b, -, rfl⟩ | ⟨n, -, rfl⟩ | ⟨-, rfl⟩ | ⟨n, -, rfl⟩
    · obtain ⟨c, hlog⟩ := pushEnd_log b (acceptFsu s)
      exact .of_done hlog
    · exact .of_done rfl
    · exact .of_done rfl
    · exact .of_log_eq rfl
  · rcases h with ⟨n, -, rfl⟩ | ⟨b, -, rfl⟩ | ⟨-, rfl⟩ | ⟨-, -, rfl⟩ | ⟨-, -, rfl⟩ | ⟨-, rfl⟩ | ⟨-, rfl⟩ | ⟨-, rfl⟩
    · rw [startAppLoop_initTries]; exact .of_log_eq rfl
    · exact .of_log_eq rfl
    · exact .of_log_eq rfl
    · exact .of_done rfl
    all_goals exact .of_log_eq rfl

theorem deliver_appends {e : Input} {s t : State} (h : deliver e s = .next t) : AppendsMapEntries s t := by
  rcases deliver_next h with ⟨w, i, -, -, hx⟩ | ⟨w, err, -, -, rfl⟩ | ⟨i, b, -, rfl⟩ | ⟨v, -, rfl⟩ | ⟨a, -, hx⟩ |
    ⟨a, -, hx⟩ | ⟨-, hx⟩ | ⟨-, rfl⟩
  · exact (exec_appends hx : AppendsMapEntries (takeCmd s) t)
  · exact .of_done rfl
  · exact .of_log_eq rfl
  · exact .of_log_eq rfl
  · exact (gscAnswer_works hx).appends hx
  · exact (fsuAnswer_works hx).appends hx
  · exact (gscTick_works hx).appends hx
  · exact .of_log_eq rfl

theorem step_appends {s t : State} (h : step s = .next t) : AppendsMapEntries s t := by
  obtain ⟨-, rfl | ⟨w, hd⟩ | ⟨e, rest, -, hd⟩⟩ := step_next_deliver h
  · exact .of_log_eq rfl
  · exact deliver_appends hd
  · exact (deliver_appends hd : AppendsMapEntries (setInputs rest s) t)

/-- Settles O52: every delivered input appends entries of the register map only. -/
theorem logGrowsByMapTransactions : Obligations.LogGrowsByMapTransactions := by
  intro s t h
  obtain ⟨new, hlog, hnew⟩ := step_appends h
  exact ⟨new, hlog, fun u req a hmem => hnew _ hmem⟩

/-! ### The two orders of a UART answer and an input of the GSC -/

theorem run_succ_next {k : Nat} {s t : State} (h : Host.Core.run Sys2Proof.core (k + 1) s = .next t) :
    ∃ m, step s = .next m ∧ Host.Core.run Sys2Proof.core k m = .next t := by
  cases hs : Sys2Proof.core.step s <;> simp only [Host.Core.run, hs] at h
  · exact ⟨_, hs, h⟩
  · cases h
  · cases h

/-- A run that ends well delivers its first input and goes on from there. -/
theorem runInputs_cons_next {s t : State} (hr : Ready s) {e : Input} {es : List Input}
    (h : runInputs s (e :: es) = .next t) : ∃ m, deliver e s = .next m ∧ Ready m ∧ runInputs m es = .next t := by
  obtain ⟨m, hstep, -⟩ := run_succ_next h
  have hd : outWith es (deliver e s) = .next m :=
    (deliver_setInputs e es s).symm.trans ((step_cons hr e es).symm.trans hstep)
  obtain ⟨hm, hrun⟩ := runInputs_cons_deliver hr ((deliver_setInputs e es s).trans hd)
  cases hx : deliver e s with
  | next u =>
    rw [hx] at hd
    cases hd
    exact ⟨u, rfl, hm, hrun.symm.trans h⟩
  | fault r => rw [hx] at hd; cases hd
  | refused r => rw [hx] at hd; cases hd

/-- A run on two inputs delivers one after the other. -/
theorem runInputs_pair_next {s t : State} (hr : Ready s) {e e' : Input} (h : runInputs s [e, e'] = .next t) :
    ∃ m t', deliver e s = .next m ∧ deliver e' m = .next t' ∧ t = setInputs [] t' := by
  obtain ⟨m, hd, hm, h⟩ := runInputs_cons_next hr h
  obtain ⟨t', hd', -, h⟩ := runInputs_cons_next hm h
  exact ⟨m, t', hd, hd', (Host.Outcome.next.inj h).symm⟩

/-- An I2C answer and a tick are the GSC's. -/
theorem deliver_works {e : Input} (he : e = .tick ∨ ∃ x, e = .i2c x) {g g' : State} (h : deliver e g = .next g') :
    GscWorks (deliver e) g g' := by
  obtain rfl | ⟨x, rfl⟩ := he
  · exact gscTick_works h
  · exact gscAnswer_works h

/-- Settles O53: each of the two works on its own unit beside any state of the other, so both orders end in the same two
units. -/
theorem unitsCommute : Obligations.UnitsCommute := by
  intro s t u a e hr he ht hu
  obtain ⟨f, t', hF, hGf, rfl⟩ := runInputs_pair_next hr ht
  obtain ⟨g, u', hG, hFg, rfl⟩ := runInputs_pair_next hr hu
  obtain ⟨newF, newG, hnewF, hnewG, hGf', hFg'⟩ :=
    works_commute (F := deliver (.uart a)) (fsuAnswer_works hF) (deliver_works he hG) hF hG
  obtain rfl := Host.Outcome.next.inj (hGf.symm.trans hGf')
  obtain rfl := Host.Outcome.next.inj (hFg.symm.trans hFg')
  refine ⟨rfl, filter_append_swap hnewF s.log newG, (filter_append_swap (fun ev hev => ?_) s.log newF).symm⟩
  rw [hnewG ev hev, Bool.not_true]

/-! ### What a busy unit waits for -/

/-- A command that is not refused leaves a busy GSC alone. -/
theorem exec_fsuFrame {i : Instr} {s t : State} (hb : s.gscBusy = true) (h : exec i s = .next t) : FsuFrame s t := by
  rcases exec_next h with ⟨-, c, p, -, rfl⟩ | ⟨-, h⟩ | ⟨hidle, -⟩
  · constructor <;> rfl
  · rcases h with ⟨b, -, rfl⟩ | ⟨n, -, rfl⟩ | ⟨-, rfl⟩ | ⟨n, -, rfl⟩
    · exact (FsuStep.fsPush b s).frame
    all_goals constructor <;> rfl
  · exact absurd (hidle.symm.trans hb) Bool.false_ne_true

/-- A command that is not refused leaves a busy FSU alone. -/
theorem exec_gscFrame {i : Instr} {s t : State} (hb : s.fsuBusy = true) (h : exec i s = .next t) : GscFrame s t := by
  rcases exec_next h with ⟨-, c, p, -, rfl⟩ | ⟨hidle, -⟩ | ⟨-, h⟩
  · constructor <;> rfl
  · exact absurd (hidle.symm.trans hb) Bool.false_ne_true
  · rcases h with ⟨n, -, rfl⟩ | ⟨b, -, rfl⟩ | ⟨-, rfl⟩ | ⟨-, -, rfl⟩ | ⟨-, -, rfl⟩ | ⟨-, rfl⟩ | ⟨-, rfl⟩ | ⟨-, rfl⟩
    · rw [startAppLoop_initTries]; constructor <;> rfl
    all_goals constructor <;> rfl

/-- While the GSC is busy, only its own inputs and `rst` touch anything of it; the HOST may still write `dbuf`. -/
theorem deliver_fsuFrame {e : Input} {s t : State} (hb : s.gscBusy = true) (hi2c : ∀ a, e ≠ .i2c a) (htick : e ≠ .tick)
    (hrst : e ≠ .rst) (h : deliver e s = .next t) : FsuFrame { s with dbuf := t.dbuf } t := by
  rcases deliver_next h with ⟨w, i, -, -, hx⟩ | ⟨w, err, -, -, rfl⟩ | ⟨i, b, -, rfl⟩ | ⟨v, -, rfl⟩ | ⟨a, he, -⟩ |
    ⟨a, -, hx⟩ | ⟨he, -⟩ | ⟨he, -⟩
  · exact { exec_fsuFrame (s := takeCmd s) hb hx with dbuf := rfl }
  · constructor <;> rfl
  · constructor <;> rfl
  · constructor <;> rfl
  · exact absurd he (hi2c a)
  · exact { (fsuAnswer_step hx).frame with dbuf := rfl }
  · exact absurd he htick
  · exact absurd he hrst

/-- While the FSU is busy, only UART answers and `rst` touch anything of it; `dbuf` and the history may change. -/
theorem deliver_gscFrame {e : Input} {s t : State} (hb : s.fsuBusy = true) (huart : ∀ a, e ≠ .uart a) (hrst : e ≠ .rst)
    (h : deliver e s = .next t) : GscFrame { s with dbuf := t.dbuf, hist := t.hist } t := by
  rcases deliver_next h with ⟨w, i, -, -, hx⟩ | ⟨w, err, -, -, rfl⟩ | ⟨i, b, -, rfl⟩ | ⟨v, -, rfl⟩ | ⟨a, -, hx⟩ |
    ⟨a, he, -⟩ | ⟨-, hx⟩ | ⟨he, -⟩
  · exact { exec_gscFrame (s := takeCmd s) hb hx with dbuf := rfl, hist := rfl }
  · constructor <;> rfl
  · constructor <;> rfl
  · constructor <;> rfl
  · rcases gscAnswer_step hx with hs | ⟨w, ev, -, -, rfl⟩
    · exact { hs.frame with dbuf := rfl, hist := rfl }
    · constructor <;> rfl
  · exact absurd he (huart a)
  · exact { (gscTick_step hx).frame with dbuf := rfl, hist := rfl }
  · exact absurd he hrst

/-- Settles O54: a command to a busy unit is refused, and no other input but the unit's own and `rst` touches the unit. -/
theorem busyUnitsWaitForTheirOwnInputs : Obligations.BusyUnitsWaitForTheirOwnInputs := by
  intro s t e hr h hrst
  rw [step_withInput hr] at h
  refine ⟨fun hb hi2c htick => ?_, fun hb huart => ?_⟩
  · have hf := deliver_fsuFrame hb hi2c htick hrst h
    exact ⟨hf.gscBusy.trans hb, hf.gscPhase, hf.tries, hf.maxTries, hf.curMode, hf.tgtMode, hf.coolCnt, hf.coolApplied,
      hf.ctlState, hf.hist, hf.resGsc⟩
  · have hf := deliver_gscFrame hb huart hrst h
    exact ⟨hf.fsuBusy.trans hb, hf.fsuPhase, hf.prMax, hf.win, hf.wrPtr, hf.fill, hf.sinceCnt, hf.resFsu⟩

end Sys2Proof.Machine
end

section
/-! Obligations of the encoding (30_encoding.md). A command word is its 24 operand bits above its opcode. A row matches a
word exactly when the opcode is the row's and the reserved bits of the row's format are 0 (`Op.matchesWord_iff`), so the
encoder and the decoder are compared on the operand bits alone, in one lemma a direction. -/

namespace Sys2Proof

/-! ### A word is its operand bits above its opcode -/

theorem countField_append_opcodeField (c : CmdWord) : countField c ++ opcodeField c = c :=
  BitVec.extractLsb'_append_extractLsb' (w := 24) (len := 8)

@[simp] theorem countField_append (x : BitVec 24) (b : Byte) : countField (x ++ b) = x :=
  BitVec.extractLsb'_append_eq_left

/-- An operand laid out between the bits above it and the opcode is read back at `CMD[8]`. -/
theorem extractLsb'_eight_append {m n : Nat} (hi : BitVec m) (x : BitVec n) (b : Byte) :
    (hi ++ x ++ b).extractLsb' 8 n = x := by
  rw [BitVec.extractLsb'_append_eq_of_le (Nat.le_refl 8)]
  exact BitVec.extractLsb'_append_eq_right

theorem append_eq_zero {m n : Nat} {x : BitVec m} {y : BitVec n} (h : x ++ y = 0#(m + n)) : x = 0#m ∧ y = 0#n := by
  rw [← BitVec.zero_append_zero] at h
  have hhi := congrArg (fun z => z.extractLsb' n m) h
  have hlo := congrArg (fun z => z.extractLsb' 0 n) h
  simp only [BitVec.extractLsb'_append_eq_left, BitVec.extractLsb'_append_eq_right] at hhi hlo
  exact ⟨hhi, hlo⟩

theorem eq_append_iff {c : CmdWord} {x : BitVec 24} {b : Byte} :
    c = x ++ b ↔ opcodeField c = b ∧ countField c = x := by
  constructor
  · rintro rfl
    exact ⟨BitVec.extractLsb'_append_eq_right, countField_append x b⟩
  · rintro ⟨rfl, rfl⟩
    exact (countField_append_opcodeField c).symm

theorem opcodeField_encode (i : Instr) : opcodeField (encode i) = i.op.opcode := by
  cases i <;> exact Laws.OpcodeByte.low_append _ _

/-! ### The reserved bits of a format -/

/-- The fixed bits of a format above the opcode: the reserved bits, which are 0 (30_encoding.md R82). -/
def Format.reserved : Format → BitVec 24
  | .F0 => BitVec.allOnes 24
  | .FB => BitVec.allOnes 16 ++ 0#8
  | .FW => BitVec.allOnes 8 ++ 0#16
  | .FL => BitVec.allOnes 18 ++ 0#6
  | .FN => 0#24
  | .FM => BitVec.allOnes 19 ++ 0#5
  | .FT => BitVec.allOnes 16 ++ 0x83#8

theorem Format.mask_eq (f : Format) : f.mask = f.reserved ++ 0xFF#8 := by cases f <;> rfl

theorem setWidth_opcode (o : Op) : o.opcode.setWidth 32 = 0#24 ++ o.opcode := by cases o <;> rfl

/-- A row matches exactly the words with its opcode and its reserved bits 0. -/
theorem Op.matchesWord_iff {o : Op} {c : CmdWord} :
    o.matchesWord c = true ↔ opcodeField c = o.opcode ∧ countField c &&& o.format.reserved = 0#24 := by
  have hop : opcodeField (c &&& o.format.mask) = opcodeField c := by
    rw [opcodeField, BitVec.extractLsb'_and, o.format.mask_eq, BitVec.extractLsb'_append_eq_right]
    exact BitVec.and_allOnes
  have hct : countField (c &&& o.format.mask) = countField c &&& o.format.reserved := by
    rw [countField, BitVec.extractLsb'_and, o.format.mask_eq, BitVec.extractLsb'_append_eq_left]
    rfl
  rw [Op.matchesWord, beq_iff_eq, setWidth_opcode, eq_append_iff, hop, hct]

/-- Reserved bits above an operand of `n` bits are 0 when the operand bits meet the mask. -/
theorem extractLsb'_reserved_eq_zero {m n : Nat} {c : CmdWord}
    (h : c.extractLsb' 8 (m + n) &&& (BitVec.allOnes m ++ 0#n) = 0#(m + n)) : c.extractLsb' (8 + n) m = 0#m := by
  rw [← BitVec.extractLsb'_append_extractLsb'_eq_extractLsb' rfl, BitVec.and_append, BitVec.and_allOnes] at h
  exact (append_eq_zero h).1

/-- An operand below zeros meets the mask of the bits above it. -/
theorem zero_append_and_reserved {m n : Nat} (x : BitVec n) :
    (0#m ++ x) &&& (BitVec.allOnes m ++ 0#n) = 0#(m + n) := by simp [BitVec.and_append]

/-- The operands of format FM, laid out one by one, are one operand of 5 bits. -/
theorem zero_append_modeOperand (th it : Bool) (dm : BitVec 3) :
    0#19 ++ BitVec.ofBool th ++ BitVec.ofBool it ++ dm = 0#19 ++ (BitVec.ofBool th ++ BitVec.ofBool it ++ dm) := by
  have hbits : 0#19 ++ BitVec.ofBool th ++ BitVec.ofBool it = 0#19 ++ (BitVec.ofBool th ++ BitVec.ofBool it) :=
    BitVec.append_assoc
  rw [hbits]
  exact BitVec.append_assoc (x₁ := 0#19) (x₂ := BitVec.ofBool th ++ BitVec.ofBool it)

theorem ofBool_getLsbD (c : CmdWord) (i : Nat) : BitVec.ofBool (c.getLsbD i) = c.extractLsb' i 1 := by
  ext j hj
  obtain rfl : j = 0 := by omega
  simp

/-- The operands of format FM, as `CMD` holds them. -/
theorem modeOperand_eq (c : CmdWord) :
    BitVec.ofBool (c.getLsbD 12) ++ BitVec.ofBool (c.getLsbD 11) ++ dmField c = c.extractLsb' 8 5 := by
  have hbits : c.extractLsb' 12 1 ++ c.extractLsb' 11 1 = c.extractLsb' 11 2 :=
    BitVec.extractLsb'_append_extractLsb'_eq_extractLsb' rfl
  rw [ofBool_getLsbD, ofBool_getLsbD, hbits]
  exact BitVec.extractLsb'_append_extractLsb'_eq_extractLsb' rfl

/-! ### From a command to its word -/

/-- The encoder leaves the reserved bits of a well-formed command 0. -/
theorem countField_encode_reserved {i : Instr} (hw : i.wellFormed = true) :
    countField (encode i) &&& i.op.format.reserved = 0#24 := by
  cases i with
  | cdcDecodeError b | cdcDecodeStatus b | cdcDecodeMode b | fsPush b =>
    rw [encode, countField_append]
    exact zero_append_and_reserved (m := 16) b
  | cdcEncodeMode dm it th =>
    rw [encode, countField_append, zero_append_modeOperand]
    exact zero_append_and_reserved (m := 19) (BitVec.ofBool th ++ BitVec.ofBool it ++ dm)
  | cdcDecodeRaw w =>
    rw [encode, countField_append]
    exact zero_append_and_reserved (m := 8) w
  | cdcDecodeReading len | cdcDecodeFrameValues len | cdcCheckFrame len =>
    rw [encode, countField_append]
    exact zero_append_and_reserved (m := 18) len
  | fsIsStalled n | prNextReading n | gsStartApp n =>
    rw [encode, countField_append]
    exact BitVec.and_zero
  | gsSwitchMode t =>
    have ht : t &&& 0x83#8 = 0#8 := by simpa [Instr.wellFormed, modeByteLegal] using hw
    rw [encode, countField_append]
    show (0#16 ++ t) &&& (BitVec.allOnes 16 ++ 0x83#8) = 0#24
    rw [BitVec.and_append, ht, BitVec.zero_and, BitVec.zero_append_zero]
  | fsReset | gsPollOnce | gsLoadBaseline | gsSaveBaseline | gsSwReset | gsCheckHwId => rfl

theorem matchesWord_encode {i : Instr} (hw : i.wellFormed = true) : i.op.matchesWord (encode i) = true :=
  Op.matchesWord_iff.mpr ⟨opcodeField_encode i, countField_encode_reserved hw⟩

/-- A row reads back the operands its encoder laid out. -/
theorem build_encode (i : Instr) : i.op.build (encode i) = i := by
  cases i with
  | cdcEncodeMode dm it th =>
    have hit : (encode (.cdcEncodeMode dm it th)).getLsbD 11 = it := by
      simp only [encode, BitVec.getLsbD_append]
      simp
    have hth : (encode (.cdcEncodeMode dm it th)).getLsbD 12 = th := by
      simp only [encode, BitVec.getLsbD_append]
      simp
    have hdm : dmField (encode (.cdcEncodeMode dm it th)) = dm := extractLsb'_eight_append _ dm _
    simp only [Instr.op, Op.build, hit, hth, hdm]
  | cdcDecodeError b | cdcDecodeStatus b | cdcDecodeMode b | fsPush b | gsSwitchMode b =>
    exact congrArg _ (extractLsb'_eight_append 0#16 b _)
  | cdcDecodeRaw w => exact congrArg _ (extractLsb'_eight_append 0#8 w _)
  | cdcDecodeReading len | cdcDecodeFrameValues len | cdcCheckFrame len =>
    exact congrArg _ (extractLsb'_eight_append 0#18 len _)
  | fsIsStalled n | prNextReading n | gsStartApp n => exact congrArg _ (countField_append n _)
  | fsReset | gsPollOnce | gsLoadBaseline | gsSaveBaseline | gsSwReset | gsCheckHwId => rfl

/-- Every well-formed command's word decodes to the command. -/
theorem decode_encode {i : Instr} (hw : i.wellFormed = true) : decode (encode i) = .ok i := by
  rw [decode_of_matches (matchesWord_encode hw), build_encode]

/-! ### From a word to its command -/

/-- An operand of `n` bits under reserved bits that are 0 is all the word holds above its opcode. -/
theorem zero_append_operand {m n : Nat} {c : CmdWord}
    (h : c.extractLsb' 8 (m + n) &&& (BitVec.allOnes m ++ 0#n) = 0#(m + n)) :
    0#m ++ c.extractLsb' 8 n = c.extractLsb' 8 (m + n) := by
  rw [← extractLsb'_reserved_eq_zero h]
  exact BitVec.extractLsb'_append_extractLsb'_eq_extractLsb' rfl

/-- Format FT is FB with three more reserved bits, inside the operand. -/
theorem reserved_FT {c : CmdWord} (h : countField c &&& Format.FT.reserved = 0#24) :
    modeByteLegal (byteField c) = true ∧ countField c &&& Format.FB.reserved = 0#24 := by
  have hsplit : c.extractLsb' 16 16 ++ byteField c = countField c :=
    BitVec.extractLsb'_append_extractLsb'_eq_extractLsb' rfl
  rw [← hsplit, Format.reserved, BitVec.and_append, BitVec.and_allOnes] at h
  obtain ⟨hhi, hlo⟩ := append_eq_zero (m := 16) (n := 8) h
  refine ⟨beq_iff_eq.mpr hlo, ?_⟩
  rw [← hsplit, hhi]
  exact zero_append_and_reserved (m := 16) (byteField c)

/-- The word of the command read from a matching word has the matching word's operand bits. -/
theorem countField_encode_build {o : Op} {c : CmdWord} (h : countField c &&& o.format.reserved = 0#24) :
    countField (encode (o.build c)) = countField c := by
  cases o with
  | cdcDecodeError | cdcDecodeStatus | cdcDecodeMode | fsPush =>
    exact (countField_append _ _).trans (zero_append_operand (m := 16) (n := 8) h)
  | gsSwitchMode =>
    exact (countField_append _ _).trans (zero_append_operand (m := 16) (n := 8) (reserved_FT h).2)
  | cdcEncodeMode =>
    rw [Op.build, encode, countField_append, zero_append_modeOperand, modeOperand_eq]
    exact zero_append_operand (m := 19) (n := 5) h
  | cdcDecodeRaw => exact (countField_append _ _).trans (zero_append_operand (m := 8) (n := 16) h)
  | cdcDecodeReading | cdcDecodeFrameValues | cdcCheckFrame =>
    exact (countField_append _ _).trans (zero_append_operand (m := 18) (n := 6) h)
  | fsIsStalled | prNextReading | gsStartApp => exact countField_append _ _
  | fsReset | gsPollOnce | gsLoadBaseline | gsSaveBaseline | gsSwReset | gsCheckHwId =>
    exact (countField_append _ _).trans (h.symm.trans BitVec.and_allOnes)

/-- A matching word is the word of the command read from it. -/
theorem encode_build {o : Op} {c : CmdWord} (h : o.matchesWord c = true) : encode (o.build c) = c := by
  obtain ⟨hop, hres⟩ := Op.matchesWord_iff.mp h
  calc encode (o.build c)
      = countField (encode (o.build c)) ++ opcodeField (encode (o.build c)) :=
        (countField_append_opcodeField _).symm
    _ = countField c ++ opcodeField c := by
        rw [countField_encode_build hres, opcodeField_encode, Op.op_build, hop]
    _ = c := countField_append_opcodeField c

theorem wellFormed_build {o : Op} {c : CmdWord} (h : o.matchesWord c = true) : (o.build c).wellFormed = true := by
  cases o with
  | gsSwitchMode => exact (reserved_FT (Op.matchesWord_iff.mp h).2).1
  | _ => rfl

/-- Settles O1: a row matches a word exactly when the word is its opcode under operand bits with the reserved bits 0, and
on the operand bits `encode` and `Op.build` undo each other. -/
theorem decodeAndEncodeAgree : Obligations.DecodeAndEncodeAgree := by
  refine ⟨fun i hw => decode_encode hw, fun c i h => ?_⟩
  obtain ⟨o, hm, rfl⟩ := matches_of_decode h
  exact ⟨wellFormed_build hm, encode_build hm⟩

/-- Settles O5, by running the decoder on each of the thirteen words. -/
theorem exampleWordsDecode : Obligations.ExampleWordsDecode :=
  ⟨rfl, rfl, rfl, rfl, rfl, rfl, rfl, rfl, rfl, rfl, rfl, rfl, rfl⟩

/-! ### Which row and which unit a word selects -/

/-- The `match` and `mask` columns say of a row what the decoder asks of it. -/
theorem matchesWord_iff_of_mem_tableRows {o : Op} {m k : CmdWord} (hmem : (o, m, k) ∈ Machine.tableRows) (c : CmdWord) :
    o.matchesWord c = true ↔ c &&& k = m := by
  obtain ⟨rfl, rfl⟩ := Machine.mem_tableRows.mp hmem
  exact beq_iff_eq

/-- Settles O2: the row's columns are its opcode and mask, the decoder takes a row that matches, and opcodes are
distinct. -/
theorem wordSelectsItsOnlyRow : Obligations.WordSelectsItsOnlyRow := by
  intro c o m k hmem h
  have hm : o.matchesWord c = true := (matchesWord_iff_of_mem_tableRows hmem c).mpr h
  refine ⟨⟨o.build c, decode_of_matches hm, Op.op_build c o⟩, fun o' m' k' hmem' h' => ?_⟩
  exact Op.eq_of_matches ((matchesWord_iff_of_mem_tableRows hmem' c).mpr h') hm

theorem opcodeField_of_decode {c : CmdWord} {i : Instr} (h : decode c = .ok i) : opcodeField c = i.op.opcode := by
  obtain ⟨o, hm, rfl⟩ := matches_of_decode h
  rw [Op.op_build, Op.opcodeField_of_matches hm]

/-- `CMD[7:4]`, which selects the unit, is the high half of the opcode (30_encoding.md R81). -/
theorem unitBits_of_decode {c : CmdWord} {i : Instr} (h : decode c = .ok i) :
    c.extractLsb' 4 4 = i.op.opcode.extractLsb' 4 4 := by
  rw [← opcodeField_of_decode h]
  exact (BitVec.extractLsb'_extractLsb'_of_le (by decide)).symm

/-- In the opcode map the high half of an opcode is the number of its unit. -/
theorem unitBits_opcode (o : Op) :
    (o.opcode.extractLsb' 4 4 = 0x0#4 ↔ Machine.opUnit o = .cdc) ∧
    (o.opcode.extractLsb' 4 4 = 0x1#4 ↔ Machine.opUnit o = .fsu) ∧
    (o.opcode.extractLsb' 4 4 = 0x2#4 ↔ Machine.opUnit o = .gsc) ∧ ¬0x3#4 ≤ o.opcode.extractLsb' 4 4 := by
  cases o <;> decide

/-- Settles O3: a decoded word carries the opcode of its row, whose high half is the unit's number and below 3. -/
theorem unitIsSelectedByCmdBits : Obligations.UnitIsSelectedByCmdBits := by
  refine fun c => ⟨fun i h => ?_, fun hle i h => ?_⟩
  · obtain ⟨hcdc, hfsu, hgsc, -⟩ := unitBits_opcode i.op
    rw [unitBits_of_decode h]
    exact ⟨hcdc, hfsu, hgsc⟩
  · obtain ⟨-, -, -, hlt⟩ := unitBits_opcode i.op
    exact hlt (unitBits_of_decode h ▸ hle)

/-! ### Illegal words -/

/-- A word is illegal exactly when it matches no row of the opcode map. -/
theorem illegalWord_iff {c : CmdWord} : Machine.illegalWord c ↔ ∀ o : Op, o.matchesWord c ≠ true := by
  constructor
  · intro h o hm
    have hmem := Machine.mem_tableRows (o := o).mpr ⟨rfl, rfl⟩
    exact h _ hmem ((matchesWord_iff_of_mem_tableRows hmem c).mp hm)
  · rintro h ⟨o, m, k⟩ hmem heq
    exact h o ((matchesWord_iff_of_mem_tableRows hmem c).mpr heq)

/-- The decoder rejects exactly the illegal words. -/
theorem illegalWord_iff_decode {c : CmdWord} : Machine.illegalWord c ↔ ∀ i, decode c ≠ .ok i := by
  rw [illegalWord_iff]
  constructor
  · intro h i hd
    obtain ⟨o, hm, -⟩ := matches_of_decode hd
    exact h o hm
  · exact fun h o hm => h _ (decode_of_matches hm)

/-- The assigned opcodes (30_encoding.md R84). -/
theorem opcode_assigned (o : Op) :
    (0x01 ≤ o.opcode.toNat ∧ o.opcode.toNat ≤ 0x08) ∨ (0x10 ≤ o.opcode.toNat ∧ o.opcode.toNat ≤ 0x13) ∨
    (0x20 ≤ o.opcode.toNat ∧ o.opcode.toNat ≤ 0x26) := by
  cases o <;> decide

/-- Between commands, a word that goes into the latch and is taken from it leaves the state as it was. -/
theorem takeCmd_hostWriteCmd {c : CmdWord} {s : Machine.State} (hc : s.cmd = none) :
    Machine.takeCmd (Machine.hostWriteCmd c s) = s := by
  show { s with cmd := none } = s
  rw [← hc]

/-- Writing a word that the decoder rejects completes at once on the CDC, in any state between commands. -/
theorem deliver_writeCmd_of_error {c : CmdWord} {e : DecodeError} {s : Machine.State} (hd : decode c = .error e)
    (hc : s.cmd = none) :
    Machine.deliver (.writeCmd c) s = .next (Machine.complete .cdc .illegalOp (.illegalOp c) s) := by
  simp only [Machine.deliver, Machine.runCmd, Machine.hostWriteCmd_cmd, hd, takeCmd_hostWriteCmd hc, Machine.illegalOp]

/-- Settles O4: the decoder rejects the words that match no row, an unassigned opcode matches none, and a rejected word
completes on the CDC whatever the units do. -/
theorem illegalWordCompletesOnCdc : Obligations.IllegalWordCompletesOnCdc := by
  refine ⟨fun c => illegalWord_iff_decode, fun c hrange => illegalWord_iff.mpr fun o hm => ?_, fun c s hr hill => ?_⟩
  · have hop : c.extractLsb' 0 8 = o.opcode := Op.opcodeField_of_matches hm
    rw [hop] at hrange
    have hassigned := opcode_assigned o
    omega
  · cases hd : decode c with
    | ok i => exact absurd hd (illegalWord_iff_decode.mp hill i)
    | error e =>
      have ⟨hc, _⟩ := hr
      exact (Machine.step_withInput hr _).trans (deliver_writeCmd_of_error hd hc)

end Sys2Proof
end

section
/-! Obligations of the codec (40_codec.md). Every word statement is the decoder's row rule at one row of the opcode
table; every result statement is a spec lemma of a pure codec function under the one equation of what completing a CDC
command writes. -/

namespace Sys2Proof.Machine

open Sys2Proof

/-! ### Words and completions -/

/-- A word that is a row's opcode under the row's mask decodes to the row's command (30_encoding.md R84). -/
theorem decode_of_mask (o : Op) {c : CmdWord} (h : c &&& o.format.mask = o.opcode.setWidth 32) :
    decode c = .ok (o.build c) :=
  decode_of_matches (beq_iff_eq.mpr h)

/-- A CDC completion writes `RES_CDC` and the log; the CDC is never busy, so it has nothing to set idle
(60_exceptions.md R242). -/
theorem complete_cdc (code : ResCode) (p : Payload) (s : State) :
    complete .cdc code p s =
      { s with resCdc := ⟨true, ⟨resCodeByte code, p⟩⟩, log := s.log ++ [.done .cdc code] } := rfl

/-! ### What the commands of format FL do, by their length -/

theorem exec_cdcDecodeReading_legal {len : BitVec 6} (h : len.toNat ∈ readingLengths) (s : State) :
    exec (.cdcDecodeReading len) s = .next (complete .cdc .ok (.reading (decodeReading (operandFL len s))) s) :=
  if_pos h

theorem exec_cdcDecodeReading_illegal {len : BitVec 6} (h : len.toNat ∉ readingLengths) (s : State) :
    exec (.cdcDecodeReading len) s = .next (complete .cdc .badLength (.badLength len) s) :=
  if_neg h

theorem exec_cdcDecodeFrameValues_legal {len : BitVec 6} (h : len = 32#6) (s : State) :
    exec (.cdcDecodeFrameValues len) s = .next (complete .cdc .ok (.values (decodeFrameValues s.dbuf)) s) :=
  if_pos h

theorem exec_cdcDecodeFrameValues_illegal {len : BitVec 6} (h : len ≠ 32#6) (s : State) :
    exec (.cdcDecodeFrameValues len) s = .next (complete .cdc .badLength (.badLength len) s) :=
  if_neg h

theorem exec_cdcCheckFrame_legal {len : BitVec 6} (h : len = 32#6) (s : State) :
    exec (.cdcCheckFrame len) s = .next (complete .cdc .ok (.valid (frameValid s.dbuf)) s) :=
  if_pos h

theorem exec_cdcCheckFrame_illegal {len : BitVec 6} (h : len ≠ 32#6) (s : State) :
    exec (.cdcCheckFrame len) s = .next (complete .cdc .badLength (.badLength len) s) :=
  if_neg h

/-- A CDC command completes with a code and a payload that only its word and, in format FL, `dbuf` determine. -/
theorem exec_cdc_complete {i : Instr} (h : opUnit i.op = .cdc) (dbuf : Vector Byte 32) :
    ∃ code payload, (code = .ok ∨ code = .badLength) ∧
      ∀ s : State, (i.op.format = .FL → s.dbuf = dbuf) → exec i s = .next (complete .cdc code payload s) := by
  cases i with
  | cdcDecodeError | cdcDecodeStatus | cdcDecodeMode | cdcEncodeMode | cdcDecodeRaw =>
    exact ⟨.ok, _, .inl rfl, fun _ _ => rfl⟩
  | cdcDecodeReading len =>
    by_cases hlen : len.toNat ∈ readingLengths
    · refine ⟨.ok, .reading (decodeReading (dbuf.toList.take len.toNat)), .inl rfl, fun s hs => ?_⟩
      rw [exec_cdcDecodeReading_legal hlen, operandFL, hs rfl]
    · exact ⟨.badLength, _, .inr rfl, fun s _ => exec_cdcDecodeReading_illegal hlen s⟩
  | cdcDecodeFrameValues len =>
    by_cases hlen : len = 32#6
    · exact ⟨.ok, .values (decodeFrameValues dbuf), .inl rfl,
        fun s hs => hs rfl ▸ exec_cdcDecodeFrameValues_legal hlen s⟩
    · exact ⟨.badLength, _, .inr rfl, fun s _ => exec_cdcDecodeFrameValues_illegal hlen s⟩
  | cdcCheckFrame len =>
    by_cases hlen : len = 32#6
    · exact ⟨.ok, .valid (frameValid dbuf), .inl rfl, fun s hs => hs rfl ▸ exec_cdcCheckFrame_legal hlen s⟩
    · exact ⟨.badLength, _, .inr rfl, fun s _ => exec_cdcCheckFrame_illegal hlen s⟩
  | _ => cases h

/-! ### The drive-mode byte -/

/-- The shifted fields of a MEAS_MODE byte do not overlap: the byte is their concatenation (30_encoding.md R93). -/
theorem encodeMode_eq_append (m : DriveMode) :
    encodeMode m = 0#1 ++ m.driveMode ++ BitVec.ofBool m.interrupt ++ BitVec.ofBool m.thresh ++ 0#2 := by
  apply BitVec.eq_of_getLsbD_eq
  intro i hi
  interval_cases i <;> simp only [encodeMode, BitVec.getLsbD_append] <;> simp

@[simp] theorem decodeMode_encodeMode (m : DriveMode) : decodeMode (encodeMode m) = m := by
  have hdm : (encodeMode m).extractLsb' 4 3 = m.driveMode := by
    rw [encodeMode_eq_append]
    apply BitVec.eq_of_getLsbD_eq
    intro i hi
    interval_cases i <;> simp only [BitVec.getLsbD_extractLsb', BitVec.getLsbD_append] <;> simp
  have hit : (encodeMode m).getLsbD 3 = m.interrupt := by
    simp only [encodeMode_eq_append, BitVec.getLsbD_append]
    simp
  have hth : (encodeMode m).getLsbD 2 = m.thresh := by
    simp only [encodeMode_eq_append, BitVec.getLsbD_append]
    simp
  rw [decodeMode, hdm, hit, hth]

theorem exec_cdcEncodeMode (dm : BitVec 3) (it th : Bool) (s : State) :
    exec (.cdcEncodeMode dm it th) s = .next
      (complete .cdc .ok (.encoded (0#1 ++ dm ++ BitVec.ofBool it ++ BitVec.ofBool th ++ 0#2)) s) :=
  congrArg (fun b => Host.Outcome.next (complete .cdc .ok (.encoded b) s)) (encodeMode_eq_append (operandFM dm it th))

/-! ### Bits of a byte and of a word -/

/-- Flipping one bit of a byte leaves the others. -/
theorem getLsbD_flip_of_ne {b : Byte} {i j : Nat} (h : j ≠ i) : (b ^^^ (1#8 <<< j)).getLsbD i = b.getLsbD i := by
  have hbit : (1#8 <<< j).getLsbD i = false := by
    rw [← BitVec.twoPow_eq, BitVec.getLsbD_twoPow]
    simp [h]
  rw [BitVec.getLsbD_xor, hbit, Bool.xor_false]

/-- The two fields of a raw measurement are all sixteen bits (40_codec.md R128). -/
theorem decodeRaw_lossless (w : U16) :
    ((decodeRaw w).current.setWidth 16 <<< 10) ||| (decodeRaw w).voltage.setWidth 16 = w := by
  apply BitVec.eq_of_getLsbD_eq
  intro i hi
  by_cases h : i < 10
  · simp [decodeRaw, h, hi]
  · simp [decodeRaw, h, hi, show i - 10 < 6 by omega, show 10 + (i - 10) = i by omega]

/-! ### Readings -/

theorem isSome_pairAt {R : List Byte} {i : Nat} : (pairAt R i).isSome ↔ i + 2 ≤ R.length := by
  rw [pairAt]
  by_cases h : i + 2 ≤ R.length
  · simp [h, show i < R.length by omega, show i + 1 < R.length by omega]
  · have hlast : R[i + 1]? = none := List.getElem?_eq_none (by omega)
    simp [h, hlast]

/-- Each field of a reading is present from its threshold on (40_codec.md R128). -/
theorem isSome_decodeReading (R : List Byte) :
    ((decodeReading R).eco2.isSome ↔ 2 ≤ R.length) ∧ ((decodeReading R).tvoc.isSome ↔ 4 ≤ R.length) ∧
    ((decodeReading R).status.isSome ↔ 5 ≤ R.length) ∧ ((decodeReading R).error.isSome ↔ 6 ≤ R.length) ∧
    ((decodeReading R).raw.isSome ↔ 8 ≤ R.length) := by
  refine ⟨isSome_pairAt, isSome_pairAt, ?_, ?_, ?_⟩
  · simp [decodeReading, Nat.succ_le_iff]
  · simp [decodeReading, Nat.succ_le_iff]
  · rw [decodeReading, Option.isSome_map]
    exact isSome_pairAt

/-- The operand of format FL has byte `i` of `dbuf` exactly when `i` is below its length. -/
theorem getElem?_operandFL {len : BitVec 6} {s : State} {i : Nat} (hi : i < 32) :
    (operandFL len s)[i]? = if i < len.toNat then some s.dbuf[i] else none := by
  simp [operandFL, List.getElem?_take, hi]

theorem pairAt_operandFL {len : BitVec 6} {s : State} {i : Nat} (hi : i + 1 < 32) :
    pairAt (operandFL len s) i = if i + 2 ≤ len.toNat then some (s.dbuf[i] ++ s.dbuf[i + 1]) else none := by
  rw [pairAt, getElem?_operandFL (by omega), getElem?_operandFL hi]
  by_cases h : i + 2 ≤ len.toNat
  · simp [h, show i < len.toNat by omega, show i + 1 < len.toNat by omega, pair]
  · simp [h, show ¬ i + 1 < len.toNat by omega]

/-- The reading of an operand in `dbuf` has the fields its length covers (40_codec.md R125). -/
theorem decodeReading_operandFL (len : BitVec 6) (s : State) :
    decodeReading (operandFL len s) =
      { eco2 := if 2 ≤ len.toNat then some (s.dbuf[0] ++ s.dbuf[1]) else none
        tvoc := if 4 ≤ len.toNat then some (s.dbuf[2] ++ s.dbuf[3]) else none
        status := if 5 ≤ len.toNat then some (decodeStatus s.dbuf[4]) else none
        error := if 6 ≤ len.toNat then some (decodeError s.dbuf[5]) else none
        raw := if 8 ≤ len.toNat then some (decodeRaw (s.dbuf[6] ++ s.dbuf[7])) else none } := by
  rw [decodeReading, pairAt_operandFL (by decide), pairAt_operandFL (by decide), pairAt_operandFL (by decide),
    getElem?_operandFL (by decide), getElem?_operandFL (by decide)]
  simp only [apply_ite (Option.map _), Option.map_some, Option.map_none]
  rfl

/-! ### Frames -/

theorem decodeFrameValues_eq_ofFn (F : Frame) :
    decodeFrameValues F = Vector.ofFn fun i : Fin 13 => F[4 + 2 * i.val] ++ F[5 + 2 * i.val] := by
  ext i hi
  interval_cases i <;> rfl

/-- The first `n` bytes of a frame, one by one. -/
theorem take_toList_eq_ofFn (F : Frame) {n : Nat} (hn : n ≤ 32) :
    F.toList.take n = List.ofFn fun k : Fin n => F[k.val] := by
  apply List.ext_getElem
  · simp [hn]
  · simp

theorem frameHeader_iff (F : Frame) :
    F.toList.take 4 = Config.frameHdr ↔ F[0] = 0x42#8 ∧ F[1] = 0x4D#8 ∧ F[2] = 0x00#8 ∧ F[3] = 0x1C#8 := by
  rw [take_toList_eq_ofFn F (by decide)]
  simp [Config.frameHdr, List.ofFn_succ]

theorem toNat_frameChecksum (F : Frame) :
    (frameChecksum F).toNat = (∑ k : Fin 30, (F[k.val]).toNat) % 2 ^ 16 := by
  rw [frameChecksum, BitVec.toNat_ofNat, take_toList_eq_ofFn F (by decide), List.map_ofFn, List.sum_ofFn]
  rfl

theorem frameChecksum_iff (F : Frame) :
    pair F[30] F[31] = frameChecksum F ↔
      (F[30] ++ F[31]).toNat = (∑ k : Fin 30, (F[k.val]).toNat) % 2 ^ 16 := by
  rw [← BitVec.toNat_inj, toNat_frameChecksum, pair]

/-- The frame validity predicate, byte by byte (40_codec.md R127). -/
theorem frameValid_iff (F : Frame) :
    frameValid F = true ↔ F[0] = 0x42#8 ∧ F[1] = 0x4D#8 ∧ F[2] = 0x00#8 ∧ F[3] = 0x1C#8 ∧
      (F[30] ++ F[31]).toNat = (∑ k : Fin 30, (F[k.val]).toNat) % 2 ^ 16 := by
  rw [frameValid, Bool.and_eq_true, beq_iff_eq, beq_iff_eq, frameHeader_iff, frameChecksum_iff]
  simp only [and_assoc]

/-! ### The obligations -/

/-- Settles O13: the fields of the byte do not overlap, so decoding it gives the mode back. -/
theorem encodeModeResult : Obligations.EncodeModeResult :=
  ⟨fun _ => decode_of_mask .cdcEncodeMode, exec_cdcEncodeMode, decodeMode_encodeMode,
    fun _ => decodeMode_encodeMode _⟩

/-- Settles O15: a legal length takes a prefix of `dbuf` that holds the fields below it; any other is rejected. -/
theorem decodeReadingResult : Obligations.DecodeReadingResult := by
  refine ⟨fun _ => decode_of_mask .cdcDecodeReading,
    fun len s => ⟨fun hlen => ?_, fun hlen => exec_cdcDecodeReading_illegal hlen s⟩⟩
  rw [exec_cdcDecodeReading_legal hlen, complete_cdc, decodeReading_operandFL]
  rfl

/-- Settles O16: at length 32 the thirteen words are read by their offsets; any other length is rejected. -/
theorem decodeFrameValuesResult : Obligations.DecodeFrameValuesResult := by
  refine ⟨fun _ => decode_of_mask .cdcDecodeFrameValues,
    fun len s => ⟨fun hlen => ?_, fun hlen => exec_cdcDecodeFrameValues_illegal hlen s⟩⟩
  rw [exec_cdcDecodeFrameValues_legal hlen, complete_cdc, decodeFrameValues_eq_ofFn]
  rfl

/-- Settles O17: at length 32 validity is header and checksum byte by byte; any other length is rejected. -/
theorem checkFrameResult : Obligations.CheckFrameResult := by
  refine ⟨fun _ => decode_of_mask .cdcCheckFrame,
    fun len s => ⟨fun hlen => ?_, fun hlen => exec_cdcCheckFrame_illegal hlen s⟩⟩
  rw [exec_cdcCheckFrame_legal hlen, complete_cdc, ← Bool.decide_coe (frameValid s.dbuf),
    decide_eq_decide.mpr (frameValid_iff s.dbuf)]
  rfl

/-- Settles O18, each law by the lemma of its function. -/
theorem codecLaws : Obligations.CodecLaws := by
  refine ⟨fun _ => decodeMode_encodeMode _, decodeMode_encodeMode, fun _ => ⟨⟨rfl, rfl, rfl, rfl⟩, fun _ => ?_⟩,
    fun _ => rfl, decodeRaw_lossless, fun R _ => isSome_decodeReading R, fun F hF => ?_⟩
  · exact ⟨getLsbD_flip_of_ne, getLsbD_flip_of_ne, getLsbD_flip_of_ne, getLsbD_flip_of_ne⟩
  · obtain ⟨h0, h1, h2, h3, -⟩ := (frameValid_iff F).mp hF
    exact ⟨h0, h1, h2, h3⟩

/-- Settles O19: the code and payload that complete the command from `s` complete it from every state that agrees with
`s` on what the command reads. -/
theorem cdcCommandsArePure : Obligations.CdcCommandsArePure := by
  intro i s h
  obtain ⟨code, payload, hcode, hexec⟩ := exec_cdc_complete h s.dbuf
  exact ⟨code, payload, hcode, hexec s fun _ => rfl, hexec⟩

/-- Settles O10: the table's row decodes the word, and the completion carries `decodeError b`. -/
theorem decodeErrorResult : Obligations.DecodeErrorResult :=
  ⟨fun _ => decode_of_mask .cdcDecodeError,
    fun b s => congrArg Host.Outcome.next (complete_cdc .ok (.errorFlags (decodeError b)) s)⟩

/-- Settles O11: the table's row decodes the word, and the completion carries `decodeStatus b`. -/
theorem decodeStatusResult : Obligations.DecodeStatusResult :=
  ⟨fun _ => decode_of_mask .cdcDecodeStatus,
    fun b s => congrArg Host.Outcome.next (complete_cdc .ok (.status (decodeStatus b)) s)⟩

/-- Settles O12: the table's row decodes the word, and the completion carries `decodeMode b`. -/
theorem decodeModeResult : Obligations.DecodeModeResult :=
  ⟨fun _ => decode_of_mask .cdcDecodeMode,
    fun b s => congrArg Host.Outcome.next (complete_cdc .ok (.driveMode (decodeMode b)) s)⟩

/-- Settles O14: the table's row decodes the word, and the completion carries `decodeRaw w`. -/
theorem decodeRawResult : Obligations.DecodeRawResult :=
  ⟨fun _ => decode_of_mask .cdcDecodeRaw,
    fun w s => congrArg Host.Outcome.next (complete_cdc .ok (.raw (decodeRaw w)) s)⟩

end Sys2Proof.Machine
end

section
/-! Obligations of FrameSync (41_framesync.md). FS_PUSH on an idle FSU is `fsPushed`, and a run of pushes is `pushAll`
(`runInputs_pushes`). Accepted or not, a push leaves the window as `shiftIn` does (`SameWindow.pushAll`), so what the
window holds after a run is a fact about `shiftInAll` alone; the log and the count follow push by push. -/

namespace Sys2Proof.Machine

open Sys2Proof

/-! ### Commands that an idle FSU completes at once -/

/-- What completing on the FSU writes when the command was accepted just before (60_exceptions.md R242, R249). -/
theorem complete_acceptFsu {s : State} (hb : s.fsuBusy = false) (code : ResCode) (p : Payload) :
    complete .fsu code p (acceptFsu s) =
      { s with
        resFsu := ⟨true, ⟨resCodeByte code, p⟩⟩
        fsuPhase := .idle
        log := s.log ++ [.done .fsu code]
        freeCtr := s.freeCtr + 1 } := by
  cases s; cases hb; rfl

/-- The stall test compares numbers; zero-extension changes none (41_framesync.md R156). -/
theorem isStalled_eq_decide (m : BitVec 24) (s : State) :
    isStalled m s = decide (m ≠ 0#24 ∧ m.toNat ≤ s.sinceCnt.toNat) := by
  have hm : (operandFN m).toNat = m.toNat := BitVec.toNat_setWidth_of_le (by decide)
  rw [← Bool.decide_coe (isStalled m s), decide_eq_decide, isStalled_iff, BitVec.le_def, hm]

theorem exec_fsIsStalled {s : State} (hb : s.fsuBusy = false) (m : BitVec 24) :
    exec (.fsIsStalled m) s =
      .next (complete .fsu .ok (.stalled (decide (m ≠ 0#24 ∧ m.toNat ≤ s.sinceCnt.toNat))) (acceptFsu s)) := by
  rw [← isStalled_eq_decide]
  exact startFsu_idle hb

theorem exec_fsReset {s : State} (hb : s.fsuBusy = false) :
    exec .fsReset s = .next (complete .fsu .ok .empty (acceptFsu (clearSync s))) := by
  unfold exec execFsReset
  exact startFsu_idle hb

/-- FS_PUSH on an idle FSU. -/
def fsPushed (b : Byte) (s : State) : State := pushEnd (pushByte b (acceptFsu s))

theorem exec_fsPush {s : State} (hb : s.fsuBusy = false) (b : Byte) : exec (.fsPush b) s = .next (fsPushed b s) := by
  unfold exec execFsPush
  exact startFsu_idle hb

theorem fsPushed_valid {b : Byte} {s : State} (hv : windowValid (shiftIn b s) = true) :
    fsPushed b s =
      complete .fsu .ok (.frame (logicalWindow (shiftIn b s))) (acceptFsu (setSince 0#32 (shiftIn b s))) := by
  have hv' : windowValid (shiftIn b (acceptFsu s)) = true := hv
  rw [fsPushed, pushByte, if_pos hv']; rfl

theorem fsPushed_invalid {b : Byte} {s : State} (hv : windowValid (shiftIn b s) = false) :
    fsPushed b s = complete .fsu .none .none (acceptFsu (setSince (satInc s.sinceCnt) (shiftIn b s))) := by
  have hv' : windowValid (shiftIn b (acceptFsu s)) = false := hv
  rw [fsPushed, pushByte, hv', if_neg Bool.false_ne_true]; rfl

/-! ### The window -/

/-- The registers of the window are the same in both states. -/
structure SameWindow (s t : State) : Prop where
  win : t.win = s.win
  wrPtr : t.wrPtr = s.wrPtr
  fill : t.fill = s.fill

theorem SameWindow.refl (s : State) : SameWindow s s := ⟨rfl, rfl, rfl⟩

theorem SameWindow.trans {s t u : State} (h : SameWindow s t) (h' : SameWindow t u) : SameWindow s u :=
  ⟨h'.win.trans h.win, h'.wrPtr.trans h.wrPtr, h'.fill.trans h.fill⟩

theorem SameWindow.logicalWindow_eq {s t : State} (h : SameWindow s t) : logicalWindow t = logicalWindow s := by
  simp only [logicalWindow, h.win, h.wrPtr]

theorem SameWindow.shiftIn {s t : State} (h : SameWindow s t) (b : Byte) :
    SameWindow (Machine.shiftIn b s) (Machine.shiftIn b t) := by
  constructor <;> simp only [shiftIn_win, shiftIn_wrPtr, shiftIn_fill, h.win, h.wrPtr, h.fill]

/-- Whether or not a push is accepted, the window is as the byte leaves it. -/
theorem SameWindow.fsPushed (b : Byte) (s : State) : SameWindow (Machine.shiftIn b s) (Machine.fsPushed b s) := by
  cases hv : windowValid (Machine.shiftIn b s)
  · rw [fsPushed_invalid hv]; exact ⟨rfl, rfl, rfl⟩
  · rw [fsPushed_valid hv]; exact ⟨rfl, rfl, rfl⟩

theorem getElem_logicalWindow (s : State) {j : Nat} (hj : j < 32) :
    (logicalWindow s)[j] = s.win[(s.wrPtr.toNat + j) % 32]'(Nat.mod_lt _ (by decide)) :=
  Vector.getElem_ofFn ..

theorem toNat_wrPtr_shiftIn (b : Byte) (s : State) : (shiftIn b s).wrPtr.toNat = (s.wrPtr.toNat + 1) % 32 :=
  BitVec.toNat_add ..

theorem getElem_logicalWindow_shiftIn (b : Byte) (s : State) {j : Nat} (hj : j < 32) :
    (logicalWindow (shiftIn b s))[j] =
      (s.win.set s.wrPtr.toNat b s.wrPtr.isLt)[((s.wrPtr.toNat + 1) + j) % 32]'(Nat.mod_lt _ (by decide)) := by
  simp only [getElem_logicalWindow, shiftIn_win, toNat_wrPtr_shiftIn, Nat.mod_add_mod]

/-- The byte is written over the least recent one, which leaves every other entry one place nearer the front. -/
theorem getElem_logicalWindow_shiftIn_of_lt (b : Byte) (s : State) {j : Nat} (hj : j < 31) :
    (logicalWindow (shiftIn b s))[j] = (logicalWindow s)[j + 1] := by
  have hne : s.wrPtr.toNat ≠ (s.wrPtr.toNat + 1 + j) % 32 := by have := s.wrPtr.isLt; omega
  rw [getElem_logicalWindow_shiftIn, getElem_logicalWindow, Vector.getElem_set_ne _ _ hne]
  simp only [Nat.add_assoc, Nat.add_comm 1 j]

theorem getElem_logicalWindow_shiftIn_last (b : Byte) (s : State) : (logicalWindow (shiftIn b s))[31] = b := by
  have heq : s.wrPtr.toNat = (s.wrPtr.toNat + 1 + 31) % 32 := by have := s.wrPtr.isLt; omega
  rw [getElem_logicalWindow_shiftIn]
  simp only [← heq, Vector.getElem_set_self]

theorem toList_logicalWindow_shiftIn (b : Byte) (s : State) :
    (logicalWindow (shiftIn b s)).toList = ((logicalWindow s).toList ++ [b]).drop 1 := by
  apply List.ext_getElem
  · simp
  intro j hj _
  have hj : j < 32 := by simpa using hj
  rw [List.getElem_drop, Vector.getElem_toList]
  by_cases hlast : j < 31
  · rw [getElem_logicalWindow_shiftIn_of_lt b s hlast, List.getElem_append_left (by simp; omega),
      Vector.getElem_toList]
    simp only [Nat.add_comm 1 j]
  · obtain rfl : j = 31 := by omega
    rw [getElem_logicalWindow_shiftIn_last, List.getElem_append_right (by simp)]
    simp

/-- The window after these bytes is the end of the old window with the bytes behind it. -/
theorem toList_logicalWindow_shiftInAll (bs : List Byte) (s : State) :
    (logicalWindow (shiftInAll bs s)).toList = ((logicalWindow s).toList ++ bs).drop bs.length := by
  induction bs generalizing s with
  | nil => simp [shiftInAll]
  | cons b bs ih =>
    have hstep : shiftInAll (b :: bs) s = shiftInAll bs (shiftIn b s) := rfl
    have hlen : 1 ≤ ((logicalWindow s).toList ++ [b]).length := by simp
    rw [hstep, ih, toList_logicalWindow_shiftIn, ← List.drop_append_of_le_length hlen, List.drop_drop,
      List.append_assoc, List.singleton_append, List.length_cons, Nat.add_comm 1]

theorem toList_logicalWindow_shiftInAll_of_le {bs : List Byte} (hlen : 32 ≤ bs.length) (s : State) :
    (logicalWindow (shiftInAll bs s)).toList = bs.drop (bs.length - 32) := by
  rw [toList_logicalWindow_shiftInAll, List.drop_append, Vector.length_toList,
    List.drop_eq_nil_of_le (by simpa using hlen), List.nil_append]

/-- The window after the bytes of a frame is the frame. -/
theorem logicalWindow_shiftInAll_frame (F : Frame) (s : State) : logicalWindow (shiftInAll F.toList s) = F := by
  apply Vector.toList_inj.mp
  rw [toList_logicalWindow_shiftInAll_of_le (by simp), Vector.length_toList, Nat.sub_self, List.drop_zero]

theorem shiftInAll_concat (bs : List Byte) (b : Byte) (s : State) :
    shiftInAll (bs ++ [b]) s = shiftIn b (shiftInAll bs s) := List.foldl_concat ..

theorem wrPtr_shiftInAll (bs : List Byte) (s : State) :
    (shiftInAll bs s).wrPtr = s.wrPtr + BitVec.ofNat 5 bs.length := by
  induction bs generalizing s with
  | nil => simp [shiftInAll]
  | cons b bs ih =>
    have hstep : shiftInAll (b :: bs) s = shiftInAll bs (shiftIn b s) := rfl
    rw [hstep, ih, shiftIn_wrPtr, List.length_cons, BitVec.ofNat_add, BitVec.add_assoc, BitVec.add_comm 1#5]

theorem fill_shiftInAll {bs : List Byte} {s : State} (hle : s.fill.toNat + bs.length ≤ 32) :
    (shiftInAll bs s).fill.toNat = s.fill.toNat + bs.length := by
  induction bs generalizing s with
  | nil => rfl
  | cons b bs ih =>
    rw [List.length_cons] at hle ⊢
    have hfill : (shiftIn b s).fill.toNat = s.fill.toNat + 1 := by
      rw [shiftIn_fill, fillInc_toNat]
      omega
    calc (shiftInAll bs (shiftIn b s)).fill.toNat
      _ = (shiftIn b s).fill.toNat + bs.length := ih (by omega)
      _ = s.fill.toNat + (bs.length + 1) := by omega

theorem fillInc_eq_full_iff (f : BitVec 6) : fillInc f = 32#6 ↔ 31 ≤ f.toNat := by
  rw [← BitVec.toNat_inj, fillInc_toNat]
  show min (f.toNat + 1) 32 = 32 ↔ _
  omega

theorem windowValid_shiftIn_iff (b : Byte) (s : State) :
    windowValid (shiftIn b s) = true ↔ 31 ≤ s.fill.toNat ∧ frameValid (logicalWindow (shiftIn b s)) = true := by
  rw [windowValid, Bool.and_eq_true, beq_iff_eq, shiftIn_fill, fillInc_eq_full_iff]

/-! ### Runs of pushes -/

/-- FS_PUSH of each byte in turn, on an idle FSU. -/
def pushAll (bs : List Byte) (s : State) : State := bs.foldl (fun s b => fsPushed b s) s

@[simp] theorem fsPushed_fsuBusy (b : Byte) (s : State) : (fsPushed b s).fsuBusy = false := by
  cases hv : windowValid (shiftIn b s)
  · rw [fsPushed_invalid hv]; rfl
  · rw [fsPushed_valid hv]; rfl

theorem pushAll_fsuBusy {s : State} (hb : s.fsuBusy = false) (bs : List Byte) : (pushAll bs s).fsuBusy = false := by
  induction bs generalizing s with
  | nil => exact hb
  | cons b bs ih => exact ih (fsPushed_fsuBusy b s)

/-- Between commands, writing the word of a command runs the command (60_exceptions.md R249). -/
theorem deliver_issue {i : Instr} (hw : i.wellFormed = true) {s : State} (hc : s.cmd = none) :
    deliver (issue i) s = exec i s := by
  simp only [issue, deliver, runCmd, hostWriteCmd_cmd, decode_encode hw, takeCmd_hostWriteCmd hc]

theorem runInputs_pushes {s : State} (hr : Ready s) (hb : s.fsuBusy = false) (bs : List Byte) :
    runInputs s (pushes bs) = .next (setInputs [] (pushAll bs s)) := by
  induction bs generalizing s with
  | nil => rfl
  | cons b bs ih =>
    have hd : deliver (issue (.fsPush b)) s = .next (fsPushed b s) :=
      (deliver_issue rfl hr.1).trans (exec_fsPush hb b)
    obtain ⟨hr', hrun⟩ := runInputs_cons_deliver (es := pushes bs) hr
      ((deliver_setInputs _ _ s).trans (congrArg (outWith _) hd))
    exact hrun.trans (ih (s := fsPushed b s) hr' (fsPushed_fsuBusy b s))

theorem pushAll_concat (bs : List Byte) (b : Byte) (s : State) :
    pushAll (bs ++ [b]) s = fsPushed b (pushAll bs s) := List.foldl_concat ..

theorem SameWindow.pushAll (bs : List Byte) {s t : State} (h : SameWindow s t) :
    SameWindow (shiftInAll bs s) (pushAll bs t) := by
  induction bs generalizing s t with
  | nil => exact h
  | cons b bs ih => exact ih ((h.shiftIn b).trans (.fsPushed b t))

/-- A run of pushes only appends to the log. -/
theorem pushAll_log (bs : List Byte) (s : State) : ∃ new, (pushAll bs s).log = s.log ++ new := by
  induction bs generalizing s with
  | nil => exact ⟨[], (List.append_nil _).symm⟩
  | cons b bs ih =>
    obtain ⟨c, hc⟩ := pushEnd_log b (acceptFsu s)
    obtain ⟨new, hnew⟩ := ih (fsPushed b s)
    refine ⟨.done .fsu c :: new, hnew.trans ?_⟩
    rw [fsPushed, hc, List.append_assoc]; rfl

/-- While the window cannot fill, every push is logged NONE (41_framesync.md R154). -/
theorem pushAll_log_of_not_full {bs : List Byte} {s : State} (hle : s.fill.toNat + bs.length ≤ 31) :
    (pushAll bs s).log = s.log ++ List.replicate bs.length (.done .fsu .none) := by
  induction bs generalizing s with
  | nil => exact (List.append_nil _).symm
  | cons b bs ih =>
    rw [List.length_cons] at hle
    have hv : windowValid (shiftIn b s) = false := by
      rw [← Bool.not_eq_true, windowValid_shiftIn_iff]
      omega
    have hfill : (fsPushed b s).fill.toNat = s.fill.toNat + 1 := by
      rw [(SameWindow.fsPushed b s).fill, shiftIn_fill, fillInc_toNat]
      omega
    have hlog : (fsPushed b s).log = s.log ++ [.done .fsu .none] := by rw [fsPushed_invalid hv]; rfl
    calc (pushAll bs (fsPushed b s)).log
      _ = (fsPushed b s).log ++ List.replicate bs.length (.done .fsu .none) := ih (by omega)
      _ = s.log ++ List.replicate (bs.length + 1) (.done .fsu .none) := by
        rw [hlog, List.append_assoc, List.singleton_append, ← List.replicate_succ]

/-- A push that is logged NONE was not accepted, so it is counted. -/
theorem fsPushed_sinceCnt_of_log {b : Byte} {s : State} (hlog : (fsPushed b s).log = s.log ++ [.done .fsu .none]) :
    (fsPushed b s).sinceCnt = satInc s.sinceCnt := by
  cases hv : windowValid (shiftIn b s)
  · rw [fsPushed_invalid hv]; rfl
  · rw [fsPushed_valid hv] at hlog
    cases List.append_cancel_left (hlog : s.log ++ [.done .fsu .ok] = _)

/-- Pushes that are all logged NONE are all counted, saturating (41_framesync.md R157). -/
theorem pushAll_sinceCnt_of_log {bs : List Byte} {s : State}
    (hlog : (pushAll bs s).log = s.log ++ List.replicate bs.length (.done .fsu .none)) :
    (pushAll bs s).sinceCnt.toNat = min (s.sinceCnt.toNat + bs.length) (2 ^ 32 - 1) := by
  induction bs generalizing s with
  | nil =>
    have := s.sinceCnt.isLt
    show s.sinceCnt.toNat = min (s.sinceCnt.toNat + 0) _
    omega
  | cons b bs ih =>
    obtain ⟨c, hc⟩ := pushEnd_log b (acceptFsu s)
    obtain ⟨new, hnew⟩ := pushAll_log bs (fsPushed b s)
    have hc : (fsPushed b s).log = s.log ++ [.done .fsu c] := hc
    have heq : s.log ++ .done .fsu c :: new = s.log ++ List.replicate (bs.length + 1) (.done .fsu .none) :=
      calc s.log ++ .done .fsu c :: new
        _ = (fsPushed b s).log ++ new := by rw [List.append_cons, hc]
        _ = (pushAll (b :: bs) s).log := hnew.symm
        _ = s.log ++ List.replicate (bs.length + 1) (.done .fsu .none) := hlog
    obtain ⟨hhead, rfl⟩ := List.cons.inj (List.append_cancel_left heq)
    rw [hhead] at hc
    have hcnt := ih hnew
    rw [fsPushed_sinceCnt_of_log hc, satInc_toNat] at hcnt
    show (pushAll bs (fsPushed b s)).sinceCnt.toNat = _
    rw [hcnt, List.length_cons]
    omega

/-- From an empty window, the last byte of a valid frame, after its first 31, completes the frame. -/
theorem pushAll_frame {s : State} (hf : s.fill = 0#6) {F : Frame} (hF : frameValid F = true) {bs : List Byte} {b : Byte}
    (hlen : bs.length = 31) (hbs : bs ++ [b] = F.toList) :
    pushAll F.toList s = complete .fsu .ok (.frame F) (acceptFsu (setSince 0#32 (shiftIn b (pushAll bs s)))) := by
  have hsame := SameWindow.pushAll bs (.refl s)
  have hfill : (pushAll bs s).fill.toNat = 31 := by
    rw [hsame.fill, fill_shiftInAll (by simp [hf, hlen]), hf, hlen]; rfl
  have hwin : logicalWindow (shiftIn b (pushAll bs s)) = F := by
    rw [(hsame.shiftIn b).logicalWindow_eq, ← shiftInAll_concat, hbs, logicalWindow_shiftInAll_frame]
  have hv : windowValid (shiftIn b (pushAll bs s)) = true :=
    (windowValid_shiftIn_iff b _).mpr ⟨hfill.ge, by rw [hwin, hF]⟩
  rw [← hbs, pushAll_concat, fsPushed_valid hv, hwin]

/-! ### The obligations -/

/-- Settles O24: the stall test as a comparison of numbers, completed at once. -/
theorem isStalledResult : Obligations.IsStalledResult :=
  ⟨fun _ => decode_of_mask .fsIsStalled, fun n _ hb =>
    ⟨_, (exec_fsIsStalled hb n).trans (congrArg Host.Outcome.next (complete_acceptFsu hb ..))⟩⟩

/-- Settles O25: the three registers are cleared and the command completes at once; `win` is not written. -/
theorem fsResetResult : Obligations.FsResetResult :=
  ⟨fun _ => decode_of_mask .fsReset, fun _ hb =>
    ⟨_, (exec_fsReset hb).trans (congrArg Host.Outcome.next (complete_acceptFsu (s := clearSync _) hb ..))⟩⟩

/-- Settles O20: the two ends of a push, with the window after the byte as the frame. -/
theorem pushResult : Obligations.PushResult := by
  refine ⟨fun _ => decode_of_mask .fsPush, fun b s hb => ?_⟩
  have hptr : BitVec.ofNat 5 ((s.wrPtr.toNat + 1) % 32) = (shiftIn b s).wrPtr := by
    rw [← toNat_wrPtr_shiftIn b, BitVec.ofNat_toNat, BitVec.setWidth_eq]
  have hiff := windowValid_shiftIn_iff b s
  rw [exec_fsPush hb, hptr]
  refine ⟨logicalWindow (shiftIn b s), s.freeCtr + 1, fun j => getElem_logicalWindow_shiftIn b s j.isLt,
    fun h => ?_, fun h => ?_⟩
  · rw [fsPushed_valid (hiff.mpr h)]
    exact congrArg Host.Outcome.next (complete_acceptFsu (s := setSince 0#32 (shiftIn b s)) hb ..)
  · rw [fsPushed_invalid (Bool.eq_false_iff.mpr (mt hiff.mp h))]
    exact congrArg Host.Outcome.next (complete_acceptFsu (s := setSince (satInc s.sinceCnt) (shiftIn b s)) hb ..)

/-- Settles O21: a push leaves the window as `shiftIn` does, and so does a run. -/
theorem windowSlidesByOneByte : Obligations.WindowSlidesByOneByte := by
  refine ⟨fun b s t h => ?_, fun s bs hr hb hlen => ?_⟩
  · obtain ⟨-, ht⟩ := startFsu_next (show execFsPush b s = .next t from h)
    have hsame : SameWindow (shiftIn b s) t := ht ▸ .fsPushed b s
    rw [hsame.logicalWindow_eq]
    exact ⟨fun j => getElem_logicalWindow_shiftIn_of_lt b s j.isLt, getElem_logicalWindow_shiftIn_last b s⟩
  · refine ⟨_, runInputs_pushes hr hb bs, pushAll_fsuBusy hb bs, ?_⟩
    show (logicalWindow (pushAll bs s)).toList = _
    rw [(SameWindow.pushAll bs (.refl s)).logicalWindow_eq, toList_logicalWindow_shiftInAll_of_le hlen]

/-- Settles O22: the window cannot be full before the 32nd byte, and then it is the 32 bytes pushed. -/
theorem frameIsEmittedAtItsLastByteOnly : Obligations.FrameIsEmittedAtItsLastByteOnly := by
  intro s hr hb hf
  have hsame (bs : List Byte) := SameWindow.pushAll bs (.refl s)
  refine ⟨fun bs hlen => ⟨_, runInputs_pushes hr hb bs, ?_, ?_⟩, fun F hF => ?_⟩
  · exact pushAll_log_of_not_full (by simpa [hf] using hlen)
  · show (pushAll bs s).fill.toNat = bs.length
    rw [(hsame bs).fill, fill_shiftInAll (by simp [hf]; omega), hf]
    exact Nat.zero_add _
  · have hne : F.toList ≠ [] := List.ne_nil_of_length_pos (by simp)
    have hlen : F.toList.dropLast.length = 31 := by simp
    have hframe := pushAll_frame hf hF hlen (List.dropLast_concat_getLast hne)
    have hlog := pushAll_log_of_not_full (s := s) (bs := F.toList.dropLast) (by rw [hf, hlen]; rfl)
    refine ⟨_, runInputs_pushes hr hb F.toList, ?_, ?_, ?_, ?_, ?_⟩
    · rw [hframe, ← hlen, ← hlog]; rfl
    · rw [hframe]; rfl
    · rw [hframe]; rfl
    · apply BitVec.eq_of_toNat_eq
      rw [setInputs_fill, (hsame _).fill, fill_shiftInAll (by simp [hf]), hf, Vector.length_toList]; rfl
    · rw [setInputs_wrPtr, (hsame _).wrPtr, wrPtr_shiftInAll, Vector.length_toList]
      exact BitVec.add_zero _

/-- Settles O23: every push logged NONE is counted, and the count saturates above every threshold. -/
theorem stallAfterUnacceptedPushes : Obligations.StallAfterUnacceptedPushes := by
  intro s t bs hr hb hs hrun hlog
  obtain rfl := Host.Outcome.next.inj ((runInputs_pushes hr hb bs).symm.trans hrun)
  have hcnt : (setInputs [] (pushAll bs s)).sinceCnt.toNat = min bs.length (2 ^ 32 - 1) := by
    have h := pushAll_sinceCnt_of_log hlog
    rw [hs] at h
    simpa using h
  refine ⟨hcnt, fun m => ⟨_, exec_fsIsStalled (s := setInputs [] (pushAll bs s)) (pushAll_fsuBusy hb bs) m, ?_⟩⟩
  have hiff : m.toNat ≤ min bs.length (2 ^ 32 - 1) ↔ m.toNat ≤ bs.length := by have := m.isLt; omega
  simp only [completeFsu_resFsu, hcnt, hiff]
  rfl

end Sys2Proof.Machine
end

section
/-! What the log says of a cooldown is kept by every step (42_gas_controller.md R180, R184): what leaves the GSC alone
adds nothing to the GSC's log, and of the GSC's own steps only the idle write's acknowledgement, a counted tick and
the mode read lead to a phase that the property speaks of. -/

namespace Sys2Proof.Machine

open Sys2Proof

/-! ### The cooldown in the log -/

theorem CooldownLogged.of_phase {s : State} (hcool : s.gscPhase ≠ .smCool) (htgt : s.gscPhase ≠ .smTgtWr) :
    CooldownLogged s :=
  ⟨fun h => absurd h hcool, fun h => absurd h htgt⟩

/-- The property speaks of three registers of the GSC and of the GSC's log only. -/
theorem CooldownLogged.of_frame {s t : State} (h : CooldownLogged s) (hf : FsuFrame s t) (hlog : gscLog t = gscLog s) :
    CooldownLogged t := by
  rw [CooldownLogged, hf.gscPhase, hf.coolCnt, hf.coolApplied, hlog]
  exact h

theorem gscLog_of_append {s t : State} {new : List LogEvent} (h : t.log = s.log ++ new)
    (hnew : ∀ ev ∈ new, isGscEvent ev = false) : gscLog t = gscLog s := by
  have hnil : new.filter isGscEvent = [] := List.filter_eq_nil_iff.mpr fun ev hev => by simp [hnew ev hev]
  rw [gscLog, h, List.filter_append, hnil, List.append_nil, gscLog]

theorem gscLog_of_done {s t : State} {u : CmdUnit} {c : ResCode} (hu : u ≠ .gsc) (h : t.log = s.log ++ [.done u c]) :
    gscLog t = gscLog s :=
  gscLog_of_append h (List.forall_mem_singleton.mpr (beq_false_of_ne hu))

theorem gscLog_logEvent {ev : LogEvent} (h : isGscEvent ev = true) (s : State) :
    gscLog (logEvent ev s) = gscLog s ++ [ev] := by
  simp [gscLog, h]

/-! ### Commands -/

theorem CooldownLogged.startAppLoop (s : State) : CooldownLogged (startAppLoop s) := by
  rcases startAppLoop_cases s with ⟨-, -, h⟩ | ⟨-, h⟩ <;> rw [h] <;> exact .of_phase nofun nofun

/-- A command of another unit leaves the GSC and its log alone; one of the GSC begins outside the cooldown. -/
theorem CooldownLogged.exec {i : Instr} {s t : State} (hs : CooldownLogged s) (h : exec i s = .next t) :
    CooldownLogged t := by
  rcases exec_next h with ⟨-, c, p, -, rfl⟩ | ⟨-, h⟩ | ⟨-, h⟩
  · exact hs.of_frame (by constructor <;> rfl) (gscLog_of_done (u := .cdc) nofun rfl)
  · rcases h with ⟨b, -, rfl⟩ | ⟨n, -, rfl⟩ | ⟨-, rfl⟩ | ⟨n, -, rfl⟩
    · obtain ⟨c, hlog⟩ := pushEnd_log b (acceptFsu s)
      exact hs.of_frame (FsuStep.fsPush b s).frame (gscLog_of_done (u := .fsu) nofun hlog)
    · exact hs.of_frame (by constructor <;> rfl) (gscLog_of_done (u := .fsu) nofun rfl)
    · exact hs.of_frame (by constructor <;> rfl) (gscLog_of_done (u := .fsu) nofun rfl)
    · exact hs.of_frame (by constructor <;> rfl) rfl
  · rcases h with ⟨n, -, rfl⟩ | ⟨b, -, rfl⟩ | ⟨-, rfl⟩ | ⟨-, -, rfl⟩ | ⟨-, -, rfl⟩ | ⟨-, rfl⟩ | ⟨-, rfl⟩ | ⟨-, rfl⟩
    · exact .startAppLoop _
    all_goals exact .of_phase nofun nofun

/-! ### Answers and ticks -/

theorem CooldownLogged.startAppAfterStatus (sb : Byte) (s : State) : CooldownLogged (startAppAfterStatus sb s) := by
  rcases startAppAfterStatus_cases sb s with h | h | h | h <;> rw [h] <;> exact .of_phase nofun nofun

theorem CooldownLogged.pollAfterStatus (sb : Byte) (s : State) : CooldownLogged (pollAfterStatus sb s) := by
  rcases pollAfterStatus_cases sb s with h | h | h <;> rw [h] <;> exact .of_phase nofun nofun

/-- The mode read goes to the target write only with no cooldown marked. -/
theorem CooldownLogged.switchModeAfterRead {s : State} (happlied : s.coolApplied = false) (mb : Byte) :
    CooldownLogged (switchModeAfterRead mb s) := by
  rcases switchModeAfterRead_cases mb s with h | ⟨-, -, h⟩ | ⟨-, -, h⟩ <;> rw [h]
  · exact .of_phase nofun nofun
  · exact .of_phase nofun nofun
  · exact ⟨nofun, fun _ h => absurd (happlied.symm.trans h) Bool.false_ne_true⟩

/-- The cooldown starts right after the acknowledged idle write, with no tick counted. -/
theorem CooldownLogged.switchModeAfterIdle (s : State) :
    CooldownLogged (switchModeAfterIdle (logEvent (.tx .gsc (.writeByte 0x01#8 0x00#8) .ack) s)) :=
  ⟨fun _ => ⟨gscLog s, gscLog_logEvent rfl s⟩, nofun⟩

theorem CooldownLogged.gscAnswer {a : I2CAnswer} {s t : State} (hi : GscInv s) (hs : CooldownLogged s)
    (h : gscAnswer a s = .next t) : CooldownLogged t := by
  rcases gscAnswer_next h with ⟨-, rfl⟩ | ⟨req, hr, hf, ⟨-, rfl⟩ | ⟨ha, rfl⟩⟩
  · exact hs
  · exact .of_phase nofun nofun
  · rcases gscContinue_cases (s := logEvent (.tx .gsc req a) s) hr hf ha with ⟨b, -, -, h⟩ | ⟨b, -, -, h⟩ |
      ⟨-, -, h⟩ | ⟨b, hp, -, h⟩ | ⟨hp, rfl, h⟩ | ⟨-, -, h⟩ | ⟨b, -, -, h⟩ | ⟨b, -, -, h⟩ | ⟨b, -, -, h⟩ | ⟨-, -, h⟩ |
      ⟨w, -, -, h⟩ | ⟨-, -, h⟩ | ⟨b, -, -, h⟩ <;> rw [h]
    · exact .startAppAfterStatus b _
    · exact .startAppLoop _
    · exact .startAppLoop _
    · exact .switchModeAfterRead (s := logEvent _ s) (hi.facts_at (p := .smRead) hp) b
    · cases (gscRequest_of_phase (s := s) hp).symm.trans hr
      exact .switchModeAfterIdle s
    · exact .of_phase nofun nofun
    · exact .pollAfterStatus b _
    all_goals exact .of_phase nofun nofun

/-- Below 600 the ten bits of the counter hold one more. -/
theorem coolCnt_add_one {c : BitVec 10} (h : c.toNat + 1 ≤ 600) : (c + 1#10).toNat = c.toNat + 1 := by
  rw [BitVec.toNat_add, BitVec.toNat_ofNat]
  omega

/-- A tick without `stop` is one more in the log and in the count, and the 600th leads to the target write. -/
theorem CooldownLogged.cooldownTick {s : State} (hlt : s.coolCnt.toNat < 600) (hp : s.gscPhase = .smCool)
    (hs : CooldownLogged s) : CooldownLogged (cooldownTick (logEvent (.tick s.stop) s)) := by
  obtain ⟨before, hlog⟩ := hs.1 hp
  have hcnt : (s.coolCnt + 1#10).toNat = s.coolCnt.toNat + 1 := coolCnt_add_one hlt
  have hgsc : gscLog (logEvent (.tick false) s) = before ++
      .tx .gsc (.writeByte 0x01#8 0x00#8) .ack :: List.replicate (s.coolCnt + 1#10).toNat (.tick false) := by
    rw [gscLog_logEvent rfl, hlog, hcnt, List.replicate_succ', List.append_assoc, List.cons_append]
  rcases cooldownTick_cases (logEvent (.tick s.stop) s) with ⟨-, h⟩ | ⟨hstop, -, h⟩ | ⟨hstop, hge, h⟩ <;> rw [h]
  · exact .of_phase nofun nofun
  · rw [show s.stop = false from hstop]
    exact ⟨fun _ => ⟨before, hgsc⟩, fun htgt => nomatch hp.symm.trans htgt⟩
  · have hend : (s.coolCnt + 1#10).toNat = 600 := by
      have hge : 600 ≤ (s.coolCnt + 1#10).toNat := Nat.not_lt.mp hge
      omega
    rw [hend] at hgsc
    rw [show s.stop = false from hstop]
    exact ⟨nofun, fun _ _ => ⟨before, hgsc⟩⟩

theorem CooldownLogged.gscTick {s t : State} (hi : GscInv s) (hs : CooldownLogged s) (h : gscTick s = .next t) :
    CooldownLogged t := by
  rcases gscTick_next h with ⟨-, rfl⟩ | ⟨hp, rfl⟩
  · exact hs
  · exact hs.cooldownTick (hi.cool_lt hp) hp

/-- An answer of the UART leaves the GSC and its log alone. -/
theorem CooldownLogged.fsuAnswer {a : UartAnswer} {s t : State} (hs : CooldownLogged s)
    (h : fsuAnswer a s = .next t) : CooldownLogged t := by
  obtain ⟨new, hnew, hwork⟩ := fsuAnswer_works h
  have hlog : t.log = s.log ++ new := congrArg State.log (eq_merge_of_fsu hwork h)
  exact hs.of_frame (fsuAnswer_step h).frame (gscLog_of_append hlog fun ev hev => (hnew ev hev).1)

/-! ### Every step -/

theorem CooldownLogged.deliver {e : Input} {s t : State} (hi : GscInv s) (hs : CooldownLogged s)
    (h : deliver e s = .next t) : CooldownLogged t := by
  rcases deliver_next h with ⟨w, i, -, -, hx⟩ | ⟨w, err, -, -, rfl⟩ | ⟨i, b, -, rfl⟩ | ⟨v, -, rfl⟩ | ⟨a, -, hx⟩ |
    ⟨a, -, hx⟩ | ⟨-, hx⟩ | ⟨-, rfl⟩
  · exact .exec (s := takeCmd s) hs hx
  · exact hs.of_frame (by constructor <;> rfl) (gscLog_of_done (u := .cdc) nofun rfl)
  · exact hs
  · exact hs
  · exact hs.gscAnswer hi hx
  · exact hs.fsuAnswer hx
  · exact hs.gscTick hi hx
  · exact .of_phase nofun nofun

/-- Settles O43: a delivered input keeps the property from every state in which the GSC's invariant holds. -/
theorem cooldownLogIsKept : Obligations.CooldownLogIsKept := by
  intro s t hi hs h
  obtain ⟨-, -, hg⟩ := (inv_iff s).mp hi
  obtain ⟨-, rfl | ⟨w, hd⟩ | ⟨e, rest, -, hd⟩⟩ := step_next_deliver h
  · exact hs
  · exact hs.deliver hg hd
  · obtain ⟨-, -, hg⟩ := (inv_iff _).mp (hi.setInputs rest)
    exact CooldownLogged.deliver (s := setInputs rest s) hg hs hd

end Sys2Proof.Machine
end

section
/-! Runs of the gas controller (42_gas_controller.md). `Steps s es t` is a run as a chain of delivered inputs,
whatever inputs come after them; each phase has one equation that says which continuation its answer reaches. An
operation is then the chain of its command and its answers. -/

namespace Sys2Proof.Machine

open Sys2Proof

/-! ### Runs as chains of delivered inputs -/

/-- Delivering the inputs one after the other leads from the first state to the last. -/
inductive Steps : State → List Input → State → Prop
  | nil (s : State) : Steps s [] s
  | cons {s m t : State} {e : Input} {es : List Input} : deliver e s = .next m → Steps m es t → Steps s (e :: es) t

theorem Steps.single {s t : State} {e : Input} (h : deliver e s = .next t) : Steps s [e] t := .cons h (.nil t)

theorem Steps.append {s m t : State} {es es' : List Input} (h : Steps s es m) (h' : Steps m es' t) :
    Steps s (es ++ es') t := by
  induction h with
  | nil => exact h'
  | cons hd _ ih => exact .cons hd (ih h')

/-- A chain is a run of the block, which ends with no input left. -/
theorem Steps.run {s t : State} {es : List Input} (h : Steps s es t) (hr : Ready s) :
    runInputs s es = .next (setInputs [] t) := by
  induction h with
  | nil => rfl
  | @cons s m t e es hd _ ih =>
    obtain ⟨hm, hrun⟩ := runInputs_cons_deliver hr ((deliver_setInputs e es s).trans (congrArg (outWith es) hd))
    exact hrun.trans (ih hm)

/-- A run of the block that answers a state is a chain. -/
theorem Steps.of_run {s t : State} {es : List Input} (hr : Ready s) (h : runInputs s es = .next t) :
    ∃ t', Steps s es t' ∧ t = setInputs [] t' := by
  induction es generalizing s with
  | nil => exact ⟨s, .nil s, (Host.Outcome.next.inj h).symm⟩
  | cons e es ih =>
    obtain ⟨m, hd, hm, hrun⟩ := runInputs_cons_next hr h
    obtain ⟨t', hsteps, ht⟩ := ih hm hrun
    exact ⟨t', .cons hd hsteps, ht⟩

/-! ### Acceptance -/

theorem exec_gsStartApp {s : State} (hb : s.gscBusy = false) (n : BitVec 24) :
    exec (.gsStartApp n) s = .next (toPhase .saStatus (countTry (initTries n (acceptGsc s)))) := by
  rw [← startAppLoop_initTries]
  unfold exec execGsStartApp
  exact startGsc_idle hb

theorem exec_gsSwitchMode {s : State} (hb : s.gscBusy = false) (t : Byte) :
    exec (.gsSwitchMode t) s = .next (toPhase .smRead (initSwitch (operandFT t) (acceptGsc s))) := by
  unfold exec execGsSwitchMode
  exact startGsc_idle hb

theorem exec_gsPollOnce {s : State} (hb : s.gscBusy = false) :
    exec .gsPollOnce s = .next (toPhase .poStatus (acceptGsc s)) := startGsc_idle hb

theorem exec_gsLoadBaseline {s : State} (hb : s.gscBusy = false) :
    exec .gsLoadBaseline s = .next (if s.hist = [] then complete .gsc .ok (.loadInfo ⟨false, none⟩) (acceptGsc s)
      else toPhase .blWr (acceptGsc s)) := by
  unfold exec execGsLoadBaseline
  exact startGsc_idle hb

theorem exec_gsSaveBaseline {s : State} (hb : s.gscBusy = false) :
    exec .gsSaveBaseline s = .next (toPhase .blRd (acceptGsc s)) := startGsc_idle hb

theorem exec_gsSwReset {s : State} (hb : s.gscBusy = false) :
    exec .gsSwReset s = .next (toPhase .rsWr (acceptGsc s)) := startGsc_idle hb

theorem exec_gsCheckHwId {s : State} (hb : s.gscBusy = false) :
    exec .gsCheckHwId s = .next (toPhase .idRd (acceptGsc s)) := startGsc_idle hb

/-- A GSC completion writes `RES_GSC` and the log, and the unit is idle (60_exceptions.md R242). -/
theorem complete_gsc (code : ResCode) (p : Payload) (s : State) :
    complete .gsc code p s =
      { s with
        resGsc := ⟨true, ⟨resCodeByte code, p⟩⟩
        gscBusy := false
        gscPhase := .idle
        log := s.log ++ [.done .gsc code] } := rfl

/-- A command that was accepted just before ends with its unit idle again, as it was before. -/
theorem complete_acceptGsc {s : State} (hb : s.gscBusy = false) (code : ResCode) (p : Payload) :
    complete .gsc code p (acceptGsc s) =
      { s with
        resGsc := ⟨true, ⟨resCodeByte code, p⟩⟩
        gscPhase := .idle
        log := s.log ++ [.done .gsc code]
        freeCtr := s.freeCtr + 1 } := by
  cases s; cases hb; rfl

/-! ### The answer of each phase -/

theorem toPhase_self {s : State} {p : GscPhase} (hp : s.gscPhase = p) : toPhase p s = s := by subst hp; rfl

theorem gscAnswer_saStatus {s : State} (hp : s.gscPhase = .saStatus) (sb : Byte) :
    gscAnswer (.byte sb) s =
      .next (startAppAfterStatus sb (logEvent (.tx .gsc (.readByte 0x00#8) (.byte sb)) s)) := by
  rw [← toPhase_self hp]; rfl

theorem gscAnswer_saErr {s : State} (hp : s.gscPhase = .saErr) (eb : Byte) :
    gscAnswer (.byte eb) s =
      .next (startAppAfterError eb (logEvent (.tx .gsc (.readByte 0xE0#8) (.byte eb)) s)) := by
  rw [← toPhase_self hp]; rfl

theorem gscAnswer_saStart {s : State} (hp : s.gscPhase = .saStart) :
    gscAnswer .ack s = .next (startAppAfterStart (logEvent (.tx .gsc (.writeBlock 0xF4#8 []) .ack) s)) := by
  rw [← toPhase_self hp]; rfl

theorem gscAnswer_smRead {s : State} (hp : s.gscPhase = .smRead) (mb : Byte) :
    gscAnswer (.byte mb) s =
      .next (switchModeAfterRead mb (logEvent (.tx .gsc (.readByte 0x01#8) (.byte mb)) s)) := by
  rw [← toPhase_self hp]; rfl

theorem gscAnswer_smIdleWr {s : State} (hp : s.gscPhase = .smIdleWr) :
    gscAnswer .ack s = .next (switchModeAfterIdle (logEvent (.tx .gsc (.writeByte 0x01#8 0x00#8) .ack) s)) := by
  rw [← toPhase_self hp]; rfl

theorem gscAnswer_smTgtWr {s : State} (hp : s.gscPhase = .smTgtWr) :
    gscAnswer .ack s = .next
      (switchModeAfterTarget (logEvent (.tx .gsc (.writeByte 0x01#8 (encodeMode s.tgtMode)) .ack) s)) := by
  rw [← toPhase_self hp]; rfl

theorem gscAnswer_poStatus {s : State} (hp : s.gscPhase = .poStatus) (sb : Byte) :
    gscAnswer (.byte sb) s = .next (pollAfterStatus sb (logEvent (.tx .gsc (.readByte 0x00#8) (.byte sb)) s)) := by
  rw [← toPhase_self hp]; rfl

theorem gscAnswer_poErr {s : State} (hp : s.gscPhase = .poErr) (eb : Byte) :
    gscAnswer (.byte eb) s = .next (pollAfterError eb (logEvent (.tx .gsc (.readByte 0xE0#8) (.byte eb)) s)) := by
  rw [← toPhase_self hp]; rfl

theorem gscAnswer_poResult {s : State} (hp : s.gscPhase = .poResult) (bs : Vector Byte 8) :
    gscAnswer (.block bs) s =
      .next (pollAfterResult bs (logEvent (.tx .gsc (.readBlock 0x02#8 8) (.block bs)) s)) := by
  rw [← toPhase_self hp]; rfl

theorem gscAnswer_rsWr {s : State} (hp : s.gscPhase = .rsWr) :
    gscAnswer .ack s = .next (swResetAfterWrite
      (logEvent (.tx .gsc (.writeBlock 0xFF#8 [0x11#8, 0xE5#8, 0x72#8, 0x8A#8]) .ack) s)) := by
  rw [← toPhase_self hp]; rfl

theorem gscAnswer_idRd {s : State} (hp : s.gscPhase = .idRd) (v : Byte) :
    gscAnswer (.byte v) s = .next (checkHwIdAfterRead v (logEvent (.tx .gsc (.readByte 0x20#8) (.byte v)) s)) := by
  rw [← toPhase_self hp]; rfl

theorem gscTick_smCool {s : State} (hp : s.gscPhase = .smCool) :
    gscTick s = .next (cooldownTick (logEvent (.tick s.stop) s)) := if_pos hp

/-! ### The branches of the continuations -/

theorem startAppAfterStatus_error {sb : Byte} (h : (decodeStatus sb).error = true) (s : State) :
    startAppAfterStatus sb s = toPhase .saErr s := if_pos h

theorem startAppAfterStatus_noApp {sb : Byte} (h0 : (decodeStatus sb).error = false)
    (h4 : (decodeStatus sb).appValid = false) (s : State) : startAppAfterStatus sb s =
      complete .gsc .noValidApplication (.noValidApplication sb) (setCtl .appNotStarted s) := by
  simp [startAppAfterStatus, h0, h4]

theorem startAppAfterStatus_running {sb : Byte} (h0 : (decodeStatus sb).error = false)
    (h4 : (decodeStatus sb).appValid = true) (h7 : (decodeStatus sb).fwMode = true) (s : State) :
    startAppAfterStatus sb s = complete .gsc .ok (.startInfo s.tries) (setCtl .appRunning s) := by
  simp [startAppAfterStatus, h0, h4, h7]

theorem startAppAfterStatus_boot {sb : Byte} (h0 : (decodeStatus sb).error = false)
    (h4 : (decodeStatus sb).appValid = true) (h7 : (decodeStatus sb).fwMode = false) (s : State) :
    startAppAfterStatus sb s = toPhase .saStart s := by
  simp [startAppAfterStatus, h0, h4, h7]

theorem startAppLoop_timeout {s : State} (h : s.maxTries ≠ 0#24 ∧ s.tries = s.maxTries) :
    startAppLoop s = complete .gsc .appStartTimeout (.appStartTimeout s.tries) (setCtl .appNotStarted s) := if_pos h

theorem startAppLoop_poll {s : State} (h : ¬(s.maxTries ≠ 0#24 ∧ s.tries = s.maxTries)) :
    startAppLoop s = toPhase .saStatus (countTry s) := if_neg h

theorem switchModeAfterRead_same {mb : Byte} {s : State} (h : decodeMode mb = s.tgtMode) :
    switchModeAfterRead mb s = complete .gsc .ok (.switchInfo ⟨false, false⟩) (setCurMode (decodeMode mb) s) := if_pos h

theorem switchModeAfterRead_cooldown {mb : Byte} {s : State} (hne : decodeMode mb ≠ s.tgtMode)
    (h0 : (decodeMode mb).driveMode ≠ 0#3) (hle : (decodeMode mb).driveMode ≤ s.tgtMode.driveMode) :
    switchModeAfterRead mb s = toPhase .smIdleWr (markCooldown (setCurMode (decodeMode mb) s)) := by
  rw [switchModeAfterRead, if_neg hne, if_pos ((cooldownTrigger_iff _ _).mpr ⟨h0, hle⟩)]

theorem switchModeAfterRead_direct {mb : Byte} {s : State} (hne : decodeMode mb ≠ s.tgtMode)
    (h : (decodeMode mb).driveMode = 0#3 ∨ s.tgtMode.driveMode < (decodeMode mb).driveMode) :
    switchModeAfterRead mb s = toPhase .smTgtWr (setCurMode (decodeMode mb) s) := by
  have htrig : ¬cooldownTrigger (decodeMode mb) s.tgtMode = true := fun ht => by
    obtain ⟨h0, hle⟩ := (cooldownTrigger_iff _ _).mp ht
    exact h.elim h0 fun hlt => BitVec.not_lt.mpr hle hlt
  rw [switchModeAfterRead, if_neg hne, if_neg htrig]

theorem cooldownTick_stop {s : State} (h : s.stop = true) :
    cooldownTick s = complete .gsc .cancelled (.cancelled s.coolCnt) (setCoolCnt 0#10 s) := if_pos h

theorem cooldownTick_count {s : State} (h : s.stop = false) (hlt : s.coolCnt.toNat + 1 < 600) :
    cooldownTick s = setCoolCnt (s.coolCnt + 1#10) s := by
  have hcnt : (s.coolCnt + 1#10).toNat < Config.cooldownTicks := (coolCnt_add_one hlt.le).trans_lt hlt
  rw [cooldownTick, h, if_neg Bool.false_ne_true, if_pos hcnt]

theorem cooldownTick_last {s : State} (h : s.stop = false) (hend : s.coolCnt.toNat + 1 = 600) :
    cooldownTick s = toPhase .smTgtWr (setCoolCnt 0#10 s) := by
  have hcnt : ¬(s.coolCnt + 1#10).toNat < Config.cooldownTicks :=
    Nat.not_lt.mpr ((coolCnt_add_one hend.le).trans hend).ge
  rw [cooldownTick, h, if_neg Bool.false_ne_true, if_neg hcnt]

theorem pollAfterStatus_error {sb : Byte} (h : (decodeStatus sb).error = true) (s : State) :
    pollAfterStatus sb s = toPhase .poErr s := if_pos h

theorem pollAfterStatus_ready {sb : Byte} (h0 : (decodeStatus sb).error = false)
    (h3 : (decodeStatus sb).dataReady = true) (s : State) : pollAfterStatus sb s = toPhase .poResult s := by
  simp [pollAfterStatus, h0, h3]

theorem pollAfterStatus_none {sb : Byte} (h0 : (decodeStatus sb).error = false)
    (h3 : (decodeStatus sb).dataReady = false) (s : State) : pollAfterStatus sb s = complete .gsc .none .none s := by
  simp [pollAfterStatus, h0, h3]

/-- A legal operand is the byte of the mode it decodes to (30_encoding.md R83). -/
theorem encodeMode_decodeMode {t : Byte} (h : modeByteLegal t = true) : encodeMode (decodeMode t) = t := by
  have hlegal : t &&& 0x83#8 = 0#8 := beq_iff_eq.mp h
  have hbit (i : Nat) : (t.getLsbD i && (0x83#8).getLsbD i) = false := by
    rw [← BitVec.getLsbD_and, hlegal, BitVec.getLsbD_zero]
  have h0 : t[0] = false := by simpa using hbit 0
  have h1 : t[1] = false := by simpa using hbit 1
  have h7 : t[7] = false := by simpa using hbit 7
  rw [encodeMode_eq_append]
  apply BitVec.eq_of_getLsbD_eq
  intro i hi
  interval_cases i <;> simp only [decodeMode, BitVec.getLsbD_append, BitVec.getLsbD_extractLsb'] <;>
    simp [h0, h1, h7]

end Sys2Proof.Machine
end

section
/-! Obligations of the gas controller (42_gas_controller.md) about single steps: each is the equation of its phase and
the branch that its hypotheses select. -/

namespace Sys2Proof.Machine

open Sys2Proof

/-- Settles O31: each command's acceptance and first wait. -/
theorem gscCommandsStart : Obligations.GscCommandsStart := by
  intro s hb
  refine ⟨fun n => ⟨_, _, exec_gsStartApp hb n⟩, fun t => ⟨_, _, exec_gsSwitchMode hb t⟩, ⟨_, _, exec_gsPollOnce hb⟩,
    fun hh => ⟨_, _, (exec_gsLoadBaseline hb).trans (congrArg _ (if_neg hh))⟩, fun hh => ⟨s.freeCtr + 1, ?_⟩,
    ⟨_, _, exec_gsSaveBaseline hb⟩, ⟨_, _, exec_gsSwReset hb⟩, ⟨_, _, exec_gsCheckHwId hb⟩⟩
  rw [exec_gsLoadBaseline hb, if_pos hh, complete_acceptGsc hb]
  rfl

/-- Settles O34: the four branches after the Status read. -/
theorem startAppChecksInOrder : Obligations.StartAppChecksInOrder := by
  intro s sb hr hp polled
  have hstep {t : State} (ht : startAppAfterStatus sb polled = t) : step (s.withInput (.i2c (.byte sb))) = .next t :=
    ht ▸ (step_withInput hr _).trans (gscAnswer_saStatus hp sb)
  exact ⟨fun h0 => hstep (startAppAfterStatus_error h0 _), fun h0 h4 => hstep (startAppAfterStatus_noApp h0 h4 _),
    fun h0 h4 h7 => hstep (startAppAfterStatus_running h0 h4 h7 _),
    fun h0 h4 h7 => hstep (startAppAfterStatus_boot h0 h4 h7 _)⟩

/-- Settles O35: both answers lead to the head of the loop, with what they log. -/
theorem startAppLoopsOrTimesOut : Obligations.StartAppLoopsOrTimesOut := by
  intro s a logged hr hcase
  have hloop : gscAnswer a s = .next (startAppLoop { s with log := s.log ++ logged }) := by
    rcases hcase with ⟨eb, hp, rfl, rfl⟩ | ⟨hp, rfl, rfl⟩
    · rw [List.append_cons]
      exact gscAnswer_saErr hp eb
    · exact gscAnswer_saStart hp
  have hstep {t : State} (ht : startAppLoop { s with log := s.log ++ logged } = t) :
      step (s.withInput (.i2c a)) = .next t := ht ▸ (step_withInput hr _).trans hloop
  exact ⟨fun h => hstep (startAppLoop_timeout h), fun h => hstep (startAppLoop_poll h)⟩

/-- Settles O38: the three branches after the mode read; a target level below the device's is another mode. -/
theorem switchModeTransitionTable : Obligations.SwitchModeTransitionTable := by
  intro s mb hr hp c g rd
  have hstep {t : State} (ht : switchModeAfterRead mb (logEvent (.tx .gsc (.readByte 0x01#8) (.byte mb)) s) = t) :
      step (s.withInput (.i2c (.byte mb))) = .next t := ht ▸ (step_withInput hr _).trans (gscAnswer_smRead hp mb)
  refine ⟨fun h => hstep (switchModeAfterRead_same h), fun hne h0 => ?_, fun hne h0 hle => ?_, fun hlt => ?_⟩
  · exact hstep (switchModeAfterRead_direct hne (.inl (BitVec.eq_of_toNat_eq h0)))
  · exact hstep (switchModeAfterRead_cooldown hne (fun h => h0 (congrArg BitVec.toNat h)) (BitVec.le_def.mpr hle))
  · have hne : c ≠ g := fun h => absurd (congrArg (fun m : DriveMode => m.driveMode.toNat) h) hlt.ne'
    exact hstep (switchModeAfterRead_direct hne (.inr (BitVec.lt_def.mpr hlt)))

/-- Settles O39: the steps after the forced-idle write, phase by phase. -/
theorem cooldownAndTargetSteps : Obligations.CooldownAndTargetSteps := by
  intro s hr
  have htick {v : Bool} {t : State} (hp : s.gscPhase = .smCool) (hv : s.stop = v)
      (ht : cooldownTick (logEvent (.tick v) s) = t) : step (s.withInput .tick) = .next t := by
    subst hv ht
    rw [step_withInput hr]
    exact gscTick_smCool hp
  refine ⟨fun hp => (step_withInput hr _).trans (gscAnswer_smIdleWr hp), fun hp hs => ?_,
    fun hp hs hlt => htick hp hs (cooldownTick_count hs hlt), fun hp hs hend => htick hp hs (cooldownTick_last hs hend),
    fun hp => ?_⟩
  · rw [List.append_cons]
    exact htick hp hs ((cooldownTick_stop (s := logEvent (.tick true) s) hs).trans (complete_gsc ..))
  · rw [List.append_cons]
    exact (step_withInput hr _).trans (gscAnswer_smTgtWr hp)

end Sys2Proof.Machine
end

section
/-! Whole operations of the gas controller (42_gas_controller.md), from the idle unit to their end: chains of the
equations of their phases over `runningAt`, and the three operations of at most two answers. -/

namespace Sys2Proof.Machine

open Sys2Proof

/-! ### An operation as its phase, its transactions and its latches -/

/-- The GSC in a phase of a command that it accepted, with these entries logged since; the latches are those of `s`. -/
def runningAt (p : GscPhase) (evs : List LogEvent) (s : State) : State :=
  { acceptGsc s with gscPhase := p, log := s.log ++ evs }

theorem toPhase_acceptGsc (p : GscPhase) (s : State) : toPhase p (acceptGsc s) = runningAt p [] s := by
  rw [runningAt, List.append_nil]; rfl

theorem toPhase_runningAt (q p : GscPhase) (evs : List LogEvent) (s : State) :
    toPhase q (runningAt p evs s) = runningAt q evs s := rfl

theorem logEvent_runningAt (ev : LogEvent) (p : GscPhase) (evs : List LogEvent) (s : State) :
    logEvent ev (runningAt p evs s) = runningAt p (evs ++ [ev]) s := by
  simp only [runningAt, ← List.append_assoc]; rfl

/-- A command that was accepted ends with its unit idle again, as it was before. -/
theorem complete_runningAt {s : State} (hb : s.gscBusy = false) (code : ResCode) (pl : Payload) (p : GscPhase)
    (evs : List LogEvent) : complete .gsc code pl (runningAt p evs s) =
      { s with
        resGsc := ⟨true, ⟨resCodeByte code, pl⟩⟩
        gscPhase := .idle
        log := s.log ++ (evs ++ [.done .gsc code])
        freeCtr := s.freeCtr + 1 } := by
  rw [complete_gsc, runningAt, ← List.append_assoc, ← hb]; rfl

/-- The command's word on an idle unit starts the operation. -/
theorem Steps.accepted {i : Instr} {s l : State} {p : GscPhase} (hr : Ready s) (hw : i.wellFormed = true)
    (h : exec i s = .next (toPhase p (acceptGsc l))) : Steps s [issue i] (runningAt p [] l) :=
  .single ((deliver_issue hw hr.1).trans (toPhase_acceptGsc p l ▸ h))

/-- A run that leads to the operation's completion ends in the whole state that the completion leaves. -/
theorem Steps.run_complete {s l : State} {es : List Input} {code : ResCode} {pl : Payload} {p : GscPhase}
    {evs : List LogEvent} (h : Steps s es (complete .gsc code pl (runningAt p evs l))) (hr : Ready s)
    (hb : l.gscBusy = false) : runInputs s es = .next
      { l with
        resGsc := ⟨true, ⟨resCodeByte code, pl⟩⟩
        gscPhase := .idle
        inputs := []
        log := l.log ++ (evs ++ [.done .gsc code])
        freeCtr := l.freeCtr + 1 } := by
  rw [complete_runningAt hb] at h
  exact h.run hr

/-- What the completion at the end of a run leaves of the GSC. -/
theorem Steps.completed {s l : State} {es : List Input} {code : ResCode} {pl : Payload} {p : GscPhase}
    {evs : List LogEvent} (h : Steps s es (complete .gsc code pl (runningAt p evs l))) (hr : Ready s) :
    ∃ t, runInputs s es = .next t ∧ t.resGsc = ⟨true, ⟨resCodeByte code, pl⟩⟩ ∧ t.gscBusy = false ∧
      t.gscPhase = .idle ∧ t.ctlState = l.ctlState ∧ t.coolCnt = l.coolCnt ∧
      t.log = l.log ++ (evs ++ [.done .gsc code]) :=
  ⟨_, h.run hr, rfl, rfl, rfl, rfl, rfl, List.append_assoc ..⟩

/-- An answer is logged, and the operation goes on. -/
theorem Steps.answer {s : State} {p : GscPhase} {evs : List LogEvent} {a : I2CAnswer} {ev : LogEvent}
    {op : State → State} (h : gscAnswer a (runningAt p evs s) = .next (op (logEvent ev (runningAt p evs s)))) :
    Steps (runningAt p evs s) [.i2c a] (op (runningAt p (evs ++ [ev]) s)) :=
  .single (h.trans (by rw [logEvent_runningAt]))

theorem Steps.fail {s : State} {p : GscPhase} {evs : List LogEvent} {req : I2CRequest}
    (h : gscRequest (runningAt p evs s) = some req) : Steps (runningAt p evs s) [.i2c .fail]
      (complete .gsc .transportError (.transportError (requestKind req) (some (requestReg req)))
        (runningAt p (evs ++ [.tx .gsc req .fail]) s)) :=
  .answer (gscAnswer_of_fail h)

/-! ### Operations of one answer or two -/

/-- Settles O45: the one write, acknowledged or failed. -/
theorem swResetResult : Obligations.SwResetResult := by
  refine ⟨fun _ => decode_of_mask .gsSwReset, fun s hr hb => ⟨s.freeCtr + 1, ?_, ?_⟩⟩ <;>
    have hstart := Steps.accepted hr rfl (exec_gsSwReset hb)
  · exact (hstart.append (.answer (gscAnswer_rsWr rfl))).run_complete (l := setCtl .appNotStarted s) hr hb
  · exact (hstart.append (.fail rfl)).run_complete hr hb

/-- Settles O46: the one read, answered or failed. -/
theorem checkHwIdResult : Obligations.CheckHwIdResult := by
  refine ⟨fun _ => decode_of_mask .gsCheckHwId, fun s hr hb => ⟨s.freeCtr + 1, fun v => ?_, ?_⟩⟩ <;>
    have hstart := Steps.accepted hr rfl (exec_gsCheckHwId hb)
  · exact (hstart.append (.answer (gscAnswer_idRd rfl v))).run_complete hr hb
  · exact (hstart.append (.fail rfl)).run_complete hr hb

/-- A block of eight bytes has every field of a reading (40_codec.md R125). -/
theorem decodeReading_block (bs : Vector Byte 8) :
    decodeReading bs.toList = ⟨some (bs[0] ++ bs[1]), some (bs[2] ++ bs[3]), some (decodeStatus bs[4]),
      some (decodeError bs[5]), some (decodeRaw (bs[6] ++ bs[7]))⟩ := by
  simp [decodeReading, pairAt, pair]

/-- GS_POLL_ONCE up to the branch that the Status byte selects. -/
theorem Steps.poll {s t : State} {sb : Byte} (hr : Ready s) (hb : s.gscBusy = false)
    (ht : pollAfterStatus sb (runningAt .poStatus [.tx .gsc (.readByte 0x00#8) (.byte sb)] s) = t) :
    Steps s [issue .gsPollOnce, .i2c (.byte sb)] t :=
  ht ▸ (Steps.accepted hr rfl (exec_gsPollOnce hb)).append (.answer (gscAnswer_poStatus rfl sb))

/-- Settles O44: the three branches of the Status byte, and the failure of each transaction. -/
theorem pollOnceResult : Obligations.PollOnceResult := by
  refine ⟨fun _ => decode_of_mask .gsPollOnce, fun s sb hr hb => ?_⟩
  intro polled
  have herror (h0 : sb.getLsbD 0 = true) :
      Steps s [issue .gsPollOnce, .i2c (.byte sb)] (runningAt .poErr [polled] s) :=
    .poll hr hb (pollAfterStatus_error h0 _)
  have hready (h0 : sb.getLsbD 0 = false) (h3 : sb.getLsbD 3 = true) :
      Steps s [issue .gsPollOnce, .i2c (.byte sb)] (runningAt .poResult [polled] s) :=
    .poll hr hb (pollAfterStatus_ready h0 h3 _)
  refine ⟨fun h0 eb => ⟨s.freeCtr + 1, ?_⟩, fun h0 h3 bs => ⟨s.freeCtr + 1, ?_⟩, fun h0 h3 => ⟨s.freeCtr + 1, ?_⟩,
    ⟨s.freeCtr + 1, ?_⟩, fun h0 => ⟨s.freeCtr + 1, ?_⟩, fun h0 h3 => ⟨s.freeCtr + 1, ?_⟩⟩
  · have hend := (herror h0).append (.answer (gscAnswer_poErr rfl eb))
    rw [pollAfterError, logEvent_runningAt] at hend
    exact hend.run_complete hr hb
  · have hend := (hready h0 h3).append (.answer (gscAnswer_poResult rfl bs))
    rw [pollAfterResult, decodeReading_block] at hend
    exact hend.run_complete hr hb
  · exact (Steps.poll hr hb (pollAfterStatus_none h0 h3 _)).run_complete hr hb
  · exact ((Steps.accepted hr rfl (exec_gsPollOnce hb)).append (.fail rfl)).run_complete hr hb
  · exact ((herror h0).append (.fail rfl)).run_complete hr hb
  · exact ((hready h0 h3).append (.fail rfl)).run_complete hr hb

end Sys2Proof.Machine
end

section
/-! The app-start handshake (42_gas_controller.md R170 to R176) as a whole operation: an induction over the polls of a
device in boot mode, and an invariant that bounds the polls whatever the device answers. -/

namespace Sys2Proof.Machine

open Sys2Proof

/-! ### The app-start handshake -/

/-- The handshake up to its first wait, with one try counted. -/
theorem Steps.startApp {s : State} (hr : Ready s) (hb : s.gscBusy = false) (n : BitVec 24) :
    Steps s [issue (.gsStartApp n)] (runningAt .saStatus [] (countTry (initTries n s))) :=
  .accepted (l := countTry (initTries n s)) hr rfl (exec_gsStartApp hb n)

/-- Settles O36: the first Status byte ends the operation. -/
theorem startAppIsIdempotent : Obligations.StartAppIsIdempotent := by
  intro s n sb hr hb h0 h4 h7
  have hend := (Steps.startApp hr hb n).append (.answer (gscAnswer_saStatus rfl sb))
  rw [startAppAfterStatus_running h0 h4 h7] at hend
  obtain ⟨t, hrun, hres, hbusy, -, hctl, -, hlog⟩ :=
    Steps.completed (l := setCtl .appRunning (countTry (initTries n s))) hend hr
  exact ⟨t, hrun, hres, hctl, hbusy, hlog⟩

/-- What a device in boot mode answers to one poll, and what the poll logs. -/
def bootAnswers : List Input := [.i2c (.byte 0x10#8), .i2c .ack]

@[inherit_doc bootAnswers]
def bootLog : List LogEvent :=
  [.tx .gsc (.readByte 0x00#8) (.byte 0x10#8), .tx .gsc (.writeBlock 0xF4#8 []) .ack]

/-- One poll of a device in boot mode: a Status read, an app-start command, and the loop again. -/
theorem Steps.bootPoll (evs : List LogEvent) (s : State) :
    Steps (runningAt .saStatus evs s) bootAnswers (startAppLoop (runningAt .saStart (evs ++ bootLog) s)) := by
  have hstatus : Steps (runningAt .saStatus evs s) [.i2c (.byte 0x10#8)] _ := .answer (gscAnswer_saStatus rfl 0x10#8)
  rw [startAppAfterStatus_boot rfl rfl rfl, toPhase_runningAt] at hstatus
  rw [bootLog, List.append_cons]
  exact hstatus.append (.answer (gscAnswer_saStart rfl))

/-- Against a device that stays in boot mode the handshake polls until its tries are used up. -/
theorem Steps.bootPolls {k : BitVec 24} (hk : k ≠ 0#24) {r : Nat} {s : State} (hmax : s.maxTries = k)
    (hleft : s.tries.toNat + r = k.toNat) (evs : List LogEvent) :
    Steps (runningAt .saStatus evs s) (List.replicate (r + 1) bootAnswers).flatten
      (complete .gsc .appStartTimeout (.appStartTimeout k)
        (runningAt .saStart (evs ++ (List.replicate (r + 1) bootLog).flatten)
          (setCtl .appNotStarted { s with tries := k }))) := by
  have hpoll := Steps.bootPoll evs s
  induction r generalizing s evs with
  | zero =>
    obtain rfl : s.tries = k := BitVec.eq_of_toNat_eq hleft
    rw [startAppLoop_timeout (s := runningAt .saStart _ s) ⟨hmax ▸ hk, hmax.symm⟩] at hpoll
    exact hpoll
  | succ r ih =>
    have hlt := k.isLt
    have hne : s.tries ≠ s.maxTries := fun h => by rw [h, hmax] at hleft; omega
    have hcount : (countTry s).tries.toNat + r = k.toNat := by rw [countTry_tries, satInc_toNat]; omega
    rw [startAppLoop_poll (s := runningAt .saStart _ s) fun h => hne h.2] at hpoll
    have hrest := ih (s := countTry s) hmax hcount (evs ++ bootLog) (.bootPoll _ _)
    rw [List.append_assoc] at hrest
    exact hpoll.append hrest

/-! ### How many polls the handshake makes -/

/-- The Status reads in the log. -/
def statusReads (s : State) : Nat := (s.log.filter isStatusRead).length

theorem statusReads_logEvent_le (ev : LogEvent) (s : State) : statusReads (logEvent ev s) ≤ statusReads s + 1 := by
  have hone : ([ev].filter isStatusRead).length ≤ 1 := List.length_filter_le ..
  rw [statusReads, logEvent_log, List.filter_append, List.length_append]
  exact Nat.add_le_add_left hone _

theorem statusReads_logEvent_other {ev : LogEvent} (h : isStatusRead ev = false) (s : State) :
    statusReads (logEvent ev s) = statusReads s := by
  simp [statusReads, h]

theorem statusReads_complete (c : ResCode) (p : Payload) (s : State) :
    statusReads (complete .gsc c p s) = statusReads s :=
  statusReads_logEvent_other (ev := .done .gsc c) rfl s

/-- The bound that the handshake keeps while it runs, from `R` reads at its start: the reads made are at most the tries
counted, and less while the last one waits for its answer. -/
structure PollsCounted (k : BitVec 24) (R : Nat) (s : State) : Prop where
  maxTries : s.maxTries = k
  tries_le : s.tries.toNat ≤ k.toNat
  reads_le : statusReads s ≤ R + s.tries.toNat
  reads_lt : s.gscPhase = .saStatus → statusReads s < R + s.tries.toNat

/-- The handshake has ended after at most `k` reads, or it runs and counts them. -/
def PollsBounded (k : BitVec 24) (R : Nat) (s : State) : Prop :=
  (s.gscPhase = .idle ∧ statusReads s ≤ R + k.toNat) ∨ (inStartApp s.gscPhase = true ∧ PollsCounted k R s)

theorem PollsBounded.reads_le {k : BitVec 24} {R : Nat} {s : State} (h : PollsBounded k R s) :
    statusReads s ≤ R + k.toNat := by
  obtain ⟨-, h⟩ | ⟨-, h⟩ := h
  · exact h
  · have := h.reads_le
    have := h.tries_le
    omega

/-- The head of the loop ends the handshake or counts a try that the bound still allows. -/
theorem PollsBounded.startAppLoop {k : BitVec 24} (hk : k ≠ 0#24) {R : Nat} {s : State} (hmax : s.maxTries = k)
    (hle : s.tries.toNat ≤ k.toNat) (hreads : statusReads s ≤ R + s.tries.toNat) :
    PollsBounded k R (startAppLoop s) := by
  subst hmax
  rcases startAppLoop_cases s with ⟨-, -, h⟩ | ⟨hne, h⟩ <;> rw [h]
  · refine .inl ⟨rfl, ?_⟩
    have hsame : statusReads (setCtl .appNotStarted s) = statusReads s := rfl
    rw [statusReads_complete, hsame]
    omega
  · have hlt : s.tries.toNat ≠ s.maxTries.toNat := fun h => hne ⟨hk, BitVec.eq_of_toNat_eq h⟩
    have hcount : (countTry s).tries.toNat = s.tries.toNat + 1 := by
      have := s.maxTries.isLt
      rw [countTry_tries, satInc_toNat]
      omega
    have hlt' : statusReads s < R + (countTry s).tries.toNat := by omega
    exact .inr ⟨rfl, rfl, by rw [toPhase_tries]; omega, hlt'.le, fun _ => hlt'⟩

theorem inStartApp_cases {p : GscPhase} (h : inStartApp p = true) : p = .saStatus ∨ p = .saErr ∨ p = .saStart := by
  simpa [inStartApp, or_assoc] using h

/-- A transaction of the handshake is a Status read only where one was waited for. -/
theorem PollsCounted.logged {k : BitVec 24} {R : Nat} {s : State} {req : I2CRequest} (hs : PollsCounted k R s)
    (hp : inStartApp s.gscPhase = true) (hr : gscRequest s = some req) (a : I2CAnswer) :
    statusReads (logEvent (.tx .gsc req a) s) ≤ R + s.tries.toNat := by
  rcases inStartApp_cases hp with hp | hp | hp
  · exact (statusReads_logEvent_le _ s).trans (hs.reads_lt hp)
  all_goals
    cases (gscRequest_of_phase hp).symm.trans hr
    rw [statusReads_logEvent_other rfl]
    exact hs.reads_le

theorem PollsBounded.startAppAfterStatus {k : BitVec 24} {R : Nat} {s : State} (hmax : s.maxTries = k)
    (hle : s.tries.toNat ≤ k.toNat) (hreads : statusReads s ≤ R + s.tries.toNat) (sb : Byte) :
    PollsBounded k R (startAppAfterStatus sb s) := by
  have hend {c : ResCode} {p : Payload} {ctl : CtlState} :
      statusReads (complete .gsc c p (setCtl ctl s)) ≤ R + k.toNat := by
    rw [statusReads_complete]
    exact hreads.trans (Nat.add_le_add_left hle R)
  rcases startAppAfterStatus_cases sb s with h | h | h | h <;> rw [h]
  · exact .inr ⟨rfl, hmax, hle, hreads, nofun⟩
  · exact .inl ⟨rfl, hend⟩
  · exact .inl ⟨rfl, hend⟩
  · exact .inr ⟨rfl, hmax, hle, hreads, nofun⟩

theorem PollsBounded.gscAnswer {k : BitVec 24} (hk : k ≠ 0#24) {R : Nat} {a : I2CAnswer} {s t : State}
    (hs : PollsBounded k R s) (h : gscAnswer a s = .next t) : PollsBounded k R t := by
  obtain ⟨hp, hreads⟩ | ⟨hp, hc⟩ := hs
  · rw [gscAnswer_of_none ((gscRequest_none_iff s).mpr (.inl hp))] at h
    cases h
    exact .inl ⟨hp, hreads⟩
  · rcases gscAnswer_next h with ⟨-, rfl⟩ | ⟨req, hr, hf, ⟨rfl, rfl⟩ | ⟨ha, rfl⟩⟩
    · exact .inr ⟨hp, hc⟩
    · refine .inl ⟨rfl, ?_⟩
      rw [statusReads_complete]
      exact (hc.logged hp hr _).trans (Nat.add_le_add_left hc.tries_le R)
    · have hlog := hc.logged hp hr a
      rcases gscContinue_cases (s := logEvent (.tx .gsc req a) s) hr hf ha with ⟨b, -, -, h⟩ | ⟨b, -, -, h⟩ |
        ⟨-, -, h⟩ | hother
      · rw [h]; exact .startAppAfterStatus (s := logEvent _ s) hc.maxTries hc.tries_le hlog b
      · rw [h]
        exact .startAppLoop (s := logEvent (.deviceFault (decodeError b)) _) hk hc.maxTries hc.tries_le
          ((statusReads_logEvent_other rfl _).trans_le hlog)
      · rw [h]; exact .startAppLoop (s := logEvent _ s) hk hc.maxTries hc.tries_le hlog
      · rcases inStartApp_cases hp with hp | hp | hp <;> simp [hp] at hother

theorem PollsBounded.steps {k : BitVec 24} (hk : k ≠ 0#24) {R : Nat} {answers : List I2CAnswer} {s t : State}
    (hs : PollsBounded k R s) (h : Steps s (answers.map .i2c) t) : PollsBounded k R t := by
  induction answers generalizing s with
  | nil => cases h; exact hs
  | cons a answers ih =>
    obtain _ | ⟨hd, hrest⟩ := h
    exact ih (hs.gscAnswer hk hd) hrest

/-- Settles O37: the bound is kept from the acceptance on, and a device in boot mode makes the handshake reach it. -/
theorem startAppIsBoundedByItsTries : Obligations.StartAppIsBoundedByItsTries := by
  intro s k hr hb hk
  have hpos : 0 < k.toNat := Nat.pos_of_ne_zero fun h => hk (BitVec.eq_of_toNat_eq h)
  refine ⟨fun answers t h => ?_, ?_⟩
  · obtain ⟨t', hsteps, rfl⟩ := Steps.of_run hr h
    obtain _ | ⟨hd, hrest⟩ := hsteps
    have hstart := (deliver_issue rfl hr.1).trans (exec_gsStartApp hb k)
    obtain rfl := Host.Outcome.next.inj (hd.symm.trans hstart)
    have hbound : PollsBounded k (statusReads s) (toPhase .saStatus (countTry (initTries k (acceptGsc s)))) :=
      .inr ⟨rfl, rfl, hpos, Nat.le_succ _, fun _ => Nat.lt_succ_self _⟩
    exact (hbound.steps hk hrest).reads_le
  · obtain ⟨r, hkr⟩ : ∃ r, k.toNat = r + 1 := ⟨k.toNat - 1, by omega⟩
    have hpolls := Steps.bootPolls (s := countTry (initTries k s)) hk rfl ((Nat.add_comm 1 r).trans hkr.symm) []
    rw [← hkr] at hpolls
    obtain ⟨t, hrun, hres, hbusy, -, hctl, -, hlog⟩ := ((Steps.startApp hr hb k).append hpolls).completed hr
    exact ⟨t, hrun, hres, hctl, hbusy, hlog.trans (List.append_assoc ..).symm⟩

end Sys2Proof.Machine
end

section
/-! The drive-mode switch (42_gas_controller.md R180 to R187) as a whole operation: the mode read, then the target
write at once or after the forced-idle write and an induction over the ticks; and that `stop` is read at those ticks
only. -/

namespace Sys2Proof.Machine

open Sys2Proof

/-! ### The mode read and the target write -/

/-- The latches of GS_SWITCH_MODE once the device's mode is read (42_gas_controller.md R180). -/
def switchLatches (t mb : Byte) (s : State) : State := setCurMode (decodeMode mb) (initSwitch (operandFT t) s)

@[simp] theorem switchLatches_log (t mb : Byte) (s : State) : (switchLatches t mb s).log = s.log := rfl
@[simp] theorem switchLatches_stop (t mb : Byte) (s : State) : (switchLatches t mb s).stop = s.stop := rfl

/-- GS_SWITCH_MODE up to the branch that the device's mode selects. -/
theorem Steps.modeRead {s u : State} {t mb : Byte} (hr : Ready s) (hb : s.gscBusy = false)
    (hw : (Instr.gsSwitchMode t).wellFormed = true)
    (hu : switchModeAfterRead mb
      (runningAt .smRead [.tx .gsc (.readByte 0x01#8) (.byte mb)] (initSwitch (operandFT t) s)) = u) :
    Steps s [issue (.gsSwitchMode t), .i2c (.byte mb)] u :=
  hu ▸ (Steps.accepted (l := initSwitch (operandFT t) s) hr hw (exec_gsSwitchMode hb t)).append
    (.answer (gscAnswer_smRead rfl mb))

/-- The target write of a legal operand writes the operand and ends the operation. -/
theorem Steps.targetWrite {t : Byte} (hw : (Instr.gsSwitchMode t).wellFormed = true) (evs : List LogEvent) {s : State}
    (htgt : s.tgtMode = decodeMode t) :
    Steps (runningAt .smTgtWr evs s) [.i2c .ack] (complete .gsc .ok (.switchInfo ⟨s.coolApplied, true⟩)
      (runningAt .smTgtWr (evs ++ [.tx .gsc (.writeByte 0x01#8 t) .ack]) s)) := by
  have hbyte : encodeMode s.tgtMode = t := by rw [htgt, encodeMode_decodeMode hw]
  have hack := gscAnswer_smTgtWr (s := runningAt .smTgtWr evs s) rfl
  rw [show (runningAt .smTgtWr evs s).tgtMode = s.tgtMode from rfl, hbyte] at hack
  exact .answer (op := switchModeAfterTarget) hack

/-- Settles O40: the two branches without a cooldown. -/
theorem switchModeWithoutCooldown : Obligations.SwitchModeWithoutCooldown := by
  intro s t mb hr hb hw c g
  refine ⟨fun heq => ?_, fun hne hdir => ?_⟩
  · have hend := Steps.modeRead hr hb hw (switchModeAfterRead_same heq)
    obtain ⟨u, hrun, hres, hbusy, -, -, -, hlog⟩ := Steps.completed (l := switchLatches t mb s) hend hr
    exact ⟨u, hrun, hres, hbusy, hlog⟩
  · have hread : Steps s [issue (.gsSwitchMode t), .i2c (.byte mb)]
        (runningAt .smTgtWr [.tx .gsc (.readByte 0x01#8) (.byte mb)] (switchLatches t mb s)) :=
      .modeRead hr hb hw (switchModeAfterRead_direct hne hdir)
    obtain ⟨u, hrun, hres, hbusy, -, -, -, hlog⟩ := (hread.append (.targetWrite hw _ rfl)).completed hr
    exact ⟨u, hrun, hres, hbusy, hlog⟩

/-! ### The cooldown -/

/-- The log of GS_SWITCH_MODE at the start of a cooldown: the mode read and the acknowledged idle write. -/
def cooldownStartLog (mb : Byte) : List LogEvent :=
  [.tx .gsc (.readByte 0x01#8) (.byte mb), .tx .gsc (.writeByte 0x01#8 0x00#8) .ack]

/-- On the trigger, GS_SWITCH_MODE up to the start of the cooldown. -/
theorem Steps.cooldownStart {s : State} {t mb : Byte} (hr : Ready s) (hb : s.gscBusy = false)
    (hw : (Instr.gsSwitchMode t).wellFormed = true) (hne : decodeMode mb ≠ decodeMode t)
    (h0 : (decodeMode mb).driveMode ≠ 0#3) (hle : (decodeMode mb).driveMode ≤ (decodeMode t).driveMode) :
    Steps s [issue (.gsSwitchMode t), .i2c (.byte mb), .i2c .ack]
      (runningAt .smCool (cooldownStartLog mb) (setCoolCnt 0#10 (markCooldown (switchLatches t mb s)))) := by
  have hread : Steps s [issue (.gsSwitchMode t), .i2c (.byte mb)]
      (runningAt .smIdleWr [.tx .gsc (.readByte 0x01#8) (.byte mb)] (markCooldown (switchLatches t mb s))) :=
    .modeRead hr hb hw (switchModeAfterRead_cooldown hne h0 hle)
  exact hread.append (.answer (op := switchModeAfterIdle) (gscAnswer_smIdleWr rfl))

/-- A tick is logged with the `stop` sample. -/
theorem Steps.tick {s t : State} {v : Bool} (hv : s.stop = v) (evs : List LogEvent)
    (ht : cooldownTick (runningAt .smCool (evs ++ [.tick v]) s) = t) : Steps (runningAt .smCool evs s) [.tick] t := by
  subst hv ht
  rw [← logEvent_runningAt]
  exact .single (gscTick_smCool rfl)

theorem Steps.tick_count {s : State} (hstop : s.stop = false) (hlt : s.coolCnt.toNat + 1 < 600) (evs : List LogEvent) :
    Steps (runningAt .smCool evs s) [.tick]
      (runningAt .smCool (evs ++ [.tick false]) (setCoolCnt (s.coolCnt + 1#10) s)) :=
  .tick hstop evs (cooldownTick_count (s := runningAt .smCool _ s) hstop hlt)

theorem Steps.tick_last {s : State} (hstop : s.stop = false) (hend : s.coolCnt.toNat + 1 = 600) (evs : List LogEvent) :
    Steps (runningAt .smCool evs s) [.tick] (runningAt .smTgtWr (evs ++ [.tick false]) (setCoolCnt 0#10 s)) :=
  .tick hstop evs (cooldownTick_last (s := runningAt .smCool _ s) hstop hend)

theorem Steps.tick_stop {s : State} (hstop : s.stop = true) (evs : List LogEvent) :
    Steps (runningAt .smCool evs s) [.tick] (complete .gsc .cancelled (.cancelled s.coolCnt)
      (runningAt .smCool (evs ++ [.tick true]) (setCoolCnt 0#10 s))) :=
  .tick hstop evs (cooldownTick_stop (s := runningAt .smCool _ s) hstop)

theorem toNat_ofNat_tick {k : Nat} (hk : k < 600) : (BitVec.ofNat 10 k).toNat = k := by
  rw [BitVec.toNat_ofNat]
  omega

theorem Steps.ticks {s : State} (hstop : s.stop = false) (evs : List LogEvent) {k : Nat} (hk : k < 600) :
    Steps (runningAt .smCool evs (setCoolCnt 0#10 s)) (List.replicate k .tick)
      (runningAt .smCool (evs ++ List.replicate k (.tick false)) (setCoolCnt (BitVec.ofNat 10 k) s)) := by
  induction k with
  | zero =>
    rw [List.replicate_zero, List.replicate_zero, List.append_nil]
    exact .nil _
  | succ k ih =>
    have hlt : (BitVec.ofNat 10 k).toNat + 1 < 600 := by rwa [toNat_ofNat_tick (by omega)]
    have hadd : BitVec.ofNat 10 (k + 1) = BitVec.ofNat 10 k + 1#10 := BitVec.ofNat_add k 1
    rw [List.replicate_succ', List.replicate_succ', ← List.append_assoc, hadd]
    exact (ih (by omega)).append (.tick_count (s := setCoolCnt (BitVec.ofNat 10 k) s) hstop hlt _)

/-- On the trigger, GS_SWITCH_MODE up to `k` ticks of the cooldown. -/
theorem Steps.cooling {s : State} {t mb : Byte} {k : Nat} (hr : Ready s) (hb : s.gscBusy = false)
    (hstop : s.stop = false) (hw : (Instr.gsSwitchMode t).wellFormed = true) (hne : decodeMode mb ≠ decodeMode t)
    (h0 : (decodeMode mb).driveMode ≠ 0#3) (hle : (decodeMode mb).driveMode ≤ (decodeMode t).driveMode)
    (hk : k < 600) :
    Steps s ([issue (.gsSwitchMode t), .i2c (.byte mb), .i2c .ack] ++ List.replicate k .tick)
      (runningAt .smCool (cooldownStartLog mb ++ List.replicate k (.tick false))
        (setCoolCnt (BitVec.ofNat 10 k) (markCooldown (switchLatches t mb s)))) :=
  (Steps.cooldownStart hr hb hw hne h0 hle).append (.ticks (s := markCooldown (switchLatches t mb s)) (by simpa) _ hk)

/-- The log of an operation that ends after some ticks. -/
theorem append_ticks_end (old start ticks : List LogEvent) (last done : LogEvent) :
    old ++ (start ++ ticks ++ [last] ++ [done]) = old ++ start ++ ticks ++ [last, done] := by
  simp only [List.append_assoc, List.singleton_append]

/-- Settles O41: 599 ticks are counted, and the 600th leads to the target write. -/
theorem cooldownHoldsSixHundredTicks : Obligations.CooldownHoldsSixHundredTicks := by
  intro s t mb hr hb hstop hw hne h0 hle
  have hcool {k : Nat} (hk : k < 600) := Steps.cooling hr hb hstop hw hne h0 hle hk
  refine ⟨fun k hk => ⟨_, (hcool hk).run hr, rfl, toNat_ofNat_tick hk, ?_⟩, ?_⟩
  · obtain ⟨-, -, -, -, -, -, hcooling, -⟩ := bstat_bits (setInputs [] (runningAt .smCool
      (cooldownStartLog mb ++ List.replicate k (.tick false))
      (setCoolCnt (BitVec.ofNat 10 k) (markCooldown (switchLatches t mb s)))))
    exact hcooling.trans rfl
  · have hlast := (hcool (k := 599) (by decide)).append (.tick_last (s := setCoolCnt (BitVec.ofNat 10 599)
      (markCooldown (switchLatches t mb s))) (by simpa) rfl _)
    rw [List.append_assoc, List.append_assoc, ← List.replicate_succ', ← List.replicate_succ'] at hlast
    obtain ⟨u, hrun, hres, hbusy, -, -, hcnt, hlog⟩ := (hlast.append (.targetWrite hw _ rfl)).completed hr
    rw [setCoolCnt_log, setCoolCnt_log, markCooldown_log, switchLatches_log, append_ticks_end] at hlog
    exact ⟨u, hrun, hres, hbusy, hcnt, hlog⟩

/-! ### Where `stop` is not read -/

/-- The operation neither reads nor writes `stop`. -/
def StopBlind (op : State → State) : Prop := ∀ v s, op (hostDriveStop v s) = hostDriveStop v (op s)

theorem StopBlind.ite {c : State → Prop} [DecidablePred c] {op op' : State → State} (h : StopBlind op)
    (h' : StopBlind op') (hc : ∀ v s, c (hostDriveStop v s) ↔ c s) :
    StopBlind fun s => if c s then op s else op' s := by
  intro v s
  by_cases hs : c s
  · simp only [hs, (hc v s).mpr hs, if_true, h v s]
  · simp only [hs, mt (hc v s).mp hs, if_false, h' v s]

theorem startAppLoop_stopBlind : StopBlind startAppLoop :=
  .ite (fun _ _ => rfl) (fun _ _ => rfl) fun _ _ => Iff.rfl

theorem startAppAfterStatus_stopBlind (sb : Byte) : StopBlind (startAppAfterStatus sb) :=
  .ite (fun _ _ => rfl)
    (.ite (fun _ _ => rfl) (.ite (fun _ _ => rfl) (fun _ _ => rfl) fun _ _ => Iff.rfl) fun _ _ => Iff.rfl)
    fun _ _ => Iff.rfl

theorem switchModeAfterRead_stopBlind (mb : Byte) : StopBlind (switchModeAfterRead mb) :=
  .ite (fun _ _ => rfl) (.ite (fun _ _ => rfl) (fun _ _ => rfl) fun _ _ => Iff.rfl) fun _ _ => Iff.rfl

theorem pollAfterStatus_stopBlind (sb : Byte) : StopBlind (pollAfterStatus sb) :=
  .ite (fun _ _ => rfl) (.ite (fun _ _ => rfl) (fun _ _ => rfl) fun _ _ => Iff.rfl) fun _ _ => Iff.rfl

/-- Each phase has one continuation, and none looks at `stop`. -/
theorem gscContinue_stopBlind (a : I2CAnswer) : StopBlind (gscContinue a) := by
  intro v s
  have hp : (hostDriveStop v s).gscPhase = s.gscPhase := rfl
  unfold gscContinue
  rw [hp]
  cases s.gscPhase with
  | idle | smCool => rfl
  | saStatus => cases a with
    | byte b => exact startAppAfterStatus_stopBlind b v s
    | _ => rfl
  | saErr => cases a with
    | byte b => exact startAppLoop_stopBlind v (logEvent (.deviceFault (decodeError b)) s)
    | _ => rfl
  | saStart => cases a with
    | ack => exact startAppLoop_stopBlind v s
    | _ => rfl
  | smRead => cases a with
    | byte b => exact switchModeAfterRead_stopBlind b v s
    | _ => rfl
  | poStatus => cases a with
    | byte b => exact pollAfterStatus_stopBlind b v s
    | _ => rfl
  | _ => cases a <;> rfl

/-- The outcome with another level of `stop`. -/
def outStop (v : Bool) : Host.Outcome State Fault Refusal → Host.Outcome State Fault Refusal
  | .next s => .next (hostDriveStop v s)
  | .fault r => .fault r
  | .refused r => .refused r

theorem startFsu_stopBlind {op : State → State} (h : StopBlind op) (v : Bool) (s : State) :
    startFsu op (hostDriveStop v s) = outStop v (startFsu op s) := by
  cases hb : s.fsuBusy
  · rw [startFsu_idle hb, startFsu_idle (show (hostDriveStop v s).fsuBusy = false from hb)]
    exact congrArg Host.Outcome.next (h v (acceptFsu s))
  · rw [startFsu_busy hb, startFsu_busy (show (hostDriveStop v s).fsuBusy = true from hb)]; rfl

theorem startGsc_stopBlind {op : State → State} (h : StopBlind op) (v : Bool) (s : State) :
    startGsc op (hostDriveStop v s) = outStop v (startGsc op s) := by
  cases hb : s.gscBusy
  · rw [startGsc_idle hb, startGsc_idle (show (hostDriveStop v s).gscBusy = false from hb)]
    exact congrArg Host.Outcome.next (h v (acceptGsc s))
  · rw [startGsc_busy hb, startGsc_busy (show (hostDriveStop v s).gscBusy = true from hb)]; rfl

/-- What works on the FSU beside any rest of the block works beside any level of `stop`. -/
theorem FsuWorks.hostDriveStop {D : State → Host.Outcome State Fault Refusal} {s t : State} (h : FsuWorks D s t)
    (hD : D s = .next t) (v : Bool) : D (hostDriveStop v s) = .next (hostDriveStop v t) := by
  obtain ⟨new, -, hwork⟩ := h
  rw [eq_merge_of_fsu hwork hD]
  exact hwork s.log (Machine.hostDriveStop v s)

theorem fsuAnswer_stopBlind (a : UartAnswer) (v : Bool) (s : State) :
    fsuAnswer a (hostDriveStop v s) = outStop v (fsuAnswer a s) := by
  have hnext : ∃ t, fsuAnswer a s = .next t := by
    unfold fsuAnswer
    cases s.fsuPhase with
    | idle => exact ⟨_, rfl⟩
    | prByte => cases a <;> exact ⟨_, rfl⟩
  obtain ⟨t, ht⟩ := hnext
  rw [ht]
  exact (fsuAnswer_works ht).hostDriveStop ht v

theorem fsPush_stopBlind (b : Byte) : StopBlind fun s => pushEnd (pushByte b s) := by
  intro v s
  have hv : windowValid (shiftIn b (hostDriveStop v s)) = windowValid (shiftIn b s) := rfl
  simp only [pushByte, hv]
  split <;> rfl

theorem exec_stopBlind (i : Instr) (v : Bool) (s : State) : exec i (hostDriveStop v s) = outStop v (exec i s) := by
  cases i with
  | cdcDecodeReading len =>
    by_cases h : len.toNat ∈ readingLengths
    · simp only [exec_cdcDecodeReading_legal h]; rfl
    · simp only [exec_cdcDecodeReading_illegal h]; rfl
  | cdcDecodeFrameValues len =>
    by_cases h : len = 32#6
    · simp only [exec_cdcDecodeFrameValues_legal h]; rfl
    · simp only [exec_cdcDecodeFrameValues_illegal h]; rfl
  | cdcCheckFrame len =>
    by_cases h : len = 32#6
    · simp only [exec_cdcCheckFrame_legal h]; rfl
    · simp only [exec_cdcCheckFrame_illegal h]; rfl
  | fsPush b => unfold exec execFsPush; exact startFsu_stopBlind (fsPush_stopBlind b) v s
  | fsIsStalled n => unfold exec execFsIsStalled; exact startFsu_stopBlind (fun _ _ => rfl) v s
  | fsReset => unfold exec execFsReset; exact startFsu_stopBlind (fun _ _ => rfl) v s
  | prNextReading n => unfold exec execPrNextReading; exact startFsu_stopBlind (fun _ _ => rfl) v s
  | gsStartApp n =>
    unfold exec execGsStartApp
    exact startGsc_stopBlind (fun v s => startAppLoop_stopBlind v (initTries n s)) v s
  | gsLoadBaseline =>
    unfold exec execGsLoadBaseline
    exact startGsc_stopBlind (.ite (fun _ _ => rfl) (fun _ _ => rfl) fun _ _ => Iff.rfl) v s
  | gsSwitchMode t => unfold exec execGsSwitchMode; exact startGsc_stopBlind (fun _ _ => rfl) v s
  | gsPollOnce => unfold exec execGsPollOnce; exact startGsc_stopBlind (fun _ _ => rfl) v s
  | gsSaveBaseline => unfold exec execGsSaveBaseline; exact startGsc_stopBlind (fun _ _ => rfl) v s
  | gsSwReset => unfold exec execGsSwReset; exact startGsc_stopBlind (fun _ _ => rfl) v s
  | gsCheckHwId => unfold exec execGsCheckHwId; exact startGsc_stopBlind (fun _ _ => rfl) v s
  | _ => rfl

theorem runCmd_stopBlind (v : Bool) (s : State) : runCmd (hostDriveStop v s) = outStop v (runCmd s) := by
  have hc : (hostDriveStop v s).cmd = s.cmd := rfl
  unfold runCmd
  rw [hc]
  cases s.cmd with
  | none => rfl
  | some w =>
    dsimp only
    cases decode w with
    | ok i => exact exec_stopBlind i v (takeCmd s)
    | error _ => rfl

theorem gscAnswer_stopBlind (a : I2CAnswer) (v : Bool) (s : State) :
    gscAnswer a (hostDriveStop v s) = outStop v (gscAnswer a s) := by
  unfold gscAnswer
  rw [show gscRequest (hostDriveStop v s) = gscRequest s from rfl]
  cases gscRequest s with
  | none => rfl
  | some req =>
    by_cases hf : answerFits req a = true
    · by_cases ha : a = .fail
      · simp only [ha, answerFits_fail, if_true]; rfl
      · simp only [hf, ha, if_true, if_false]
        exact congrArg Host.Outcome.next (gscContinue_stopBlind a v (logEvent _ s))
    · simp only [hf]; rfl

/-- Only a tick of the cooldown reads `stop`, and only the HOST drives it. -/
theorem deliver_stopBlind {e : Input} {s : State} (htick : ¬(e = .tick ∧ s.gscPhase = .smCool))
    (hdrive : ∀ x, e ≠ .driveStop x) (v : Bool) : deliver e (hostDriveStop v s) = outStop v (deliver e s) := by
  cases e with
  | writeCmd w => exact runCmd_stopBlind v (hostWriteCmd w s)
  | writeDbuf i b => rfl
  | driveStop x => exact absurd rfl (hdrive x)
  | i2c a => exact gscAnswer_stopBlind a v s
  | uart a => exact fsuAnswer_stopBlind a v s
  | tick =>
    have hp : s.gscPhase ≠ .smCool := fun hp => htick ⟨rfl, hp⟩
    have htick' (u : State) (hu : u.gscPhase ≠ .smCool) : deliver .tick u = .next u := if_neg hu
    rw [htick' s hp]
    exact htick' (hostDriveStop v s) hp
  | rst => rfl

/-- Settles O42: the sample at a tick cancels the cooldown; driving `stop` writes nothing else, and no other input reads
it. -/
theorem stopCancelsCooldownOnly : Obligations.StopCancelsCooldownOnly := by
  refine ⟨fun s t mb k hr hb hstop hw hne h0 hle hk => ?_, fun s v hr => step_withInput hr _,
    fun s e v hr htick hdrive => ?_⟩
  · have hcancel := Steps.tick_stop (s := hostDriveStop true (setCoolCnt (BitVec.ofNat 10 k)
      (markCooldown (switchLatches t mb s)))) rfl (cooldownStartLog mb ++ List.replicate k (.tick false))
    obtain ⟨u, hrun, hres, hbusy, hphase, -, hcnt, hlog⟩ :=
      ((Steps.cooling hr hb hstop hw hne h0 hle hk).append (.cons (e := .driveStop true) rfl hcancel)).completed hr
    rw [setCoolCnt_log, hostDriveStop_log, setCoolCnt_log, markCooldown_log, switchLatches_log,
      append_ticks_end] at hlog
    exact ⟨u, hrun, hres, hbusy, hphase, hcnt, hlog⟩
  · have h : step (State.withInput { s with stop := v } e) = outStop v (step (s.withInput e)) := by
      rw [step_withInput hr]
      exact (step_withInput (s := hostDriveStop v s) hr e).trans (deliver_stopBlind htick hdrive v)
    rw [h]
    cases step (s.withInput e) <;> rfl

end Sys2Proof.Machine
end

section
/-! Obligations of the calibration baseline (43_baseline.md). The history under a save is a list operation that keeps
the newest entries (`List.rtake`); a whole load or save is the chain of its command and its one answer, and any number
of saves folds the list operation over the words saved. -/

namespace Sys2Proof.Machine

open Sys2Proof

/-! ### The cap -/

/-- Settles O8: what a step delivers writes no strap. -/
theorem calCapIsFixedAndNotZero : Obligations.CalCapIsFixedAndNotZero := by
  refine ⟨fun s h => if_pos h, fun s t h => ?_⟩
  obtain ⟨hcap, hcase⟩ := step_next_deliver h
  have hkept : t.calCap = s.calCap := by
    obtain rfl | ⟨w, hd⟩ | ⟨e, rest, -, hd⟩ := hcase
    · rfl
    · exact deliver_calCap hd
    · exact deliver_calCap (s := setInputs rest s) hd
  exact ⟨hkept ▸ hcap, hkept⟩

/-! ### The history as a list -/

theorem histAppend_eq_tail (cap : Nat) (hist : List U16) (w : U16) :
    histAppend cap hist w = if cap < hist.length + 1 then (hist ++ [w]).tail else hist ++ [w] := by
  rw [histAppend, List.length_append, List.drop_one]; rfl

/-- Within the cap, a save keeps the newest entries. -/
theorem histAppend_eq_rtake {cap : Nat} {hist : List U16} (h : hist.length ≤ cap) (w : U16) :
    histAppend cap hist w = (hist ++ [w]).rtake cap := by
  rw [histAppend, List.rtake]
  have hlen : (hist ++ [w]).length = hist.length + 1 := List.length_append
  split
  · rw [show (hist ++ [w]).length - cap = 1 by omega]
  · rw [show (hist ++ [w]).length - cap = 0 by omega, List.drop_zero]

theorem length_rtake_le (cap : Nat) (l : List U16) : (l.rtake cap).length ≤ cap := by
  rw [List.rtake, List.length_drop]; omega

/-- An entry that is dropped now is none of the newest later. -/
theorem rtake_rtake_append (cap : Nat) (l m : List U16) : (l.rtake cap ++ m).rtake cap = (l ++ m).rtake cap := by
  have hdrop : l.rtake cap ++ m = (l ++ m).drop (l.length - cap) :=
    (List.drop_append_of_le_length (Nat.sub_le ..)).symm
  rw [hdrop, List.rtake, List.rtake, List.drop_drop, List.length_drop, List.length_append]
  congr 1
  omega

/-- Any saves, one after the other, keep the newest entries of the old history and the words saved. -/
theorem foldl_histAppend {cap : Nat} {hist : List U16} (h : hist.length ≤ cap) (ws : List U16) :
    ws.foldl (histAppend cap) hist = (hist ++ ws).rtake cap := by
  induction ws using List.reverseRecOn with
  | nil => rw [List.append_nil, List.rtake, Nat.sub_eq_zero_of_le h]; rfl
  | append_singleton ws w ih =>
    rw [List.foldl_concat, ih, histAppend_eq_rtake (length_rtake_le ..), rtake_rtake_append, List.append_assoc]

/-! ### The load -/

theorem exec_gsLoadBaseline_empty {s : State} (hb : s.gscBusy = false) (h : s.hist = []) :
    exec .gsLoadBaseline s = .next (complete .gsc .ok (.loadInfo ⟨false, none⟩) (acceptGsc s)) := by
  rw [exec_gsLoadBaseline hb, if_pos h]

theorem exec_gsLoadBaseline_write {s : State} (hb : s.gscBusy = false) (h : s.hist ≠ []) :
    exec .gsLoadBaseline s = .next (toPhase .blWr (acceptGsc s)) := by
  rw [exec_gsLoadBaseline hb, if_neg h]

theorem gscRequest_blWr {s : State} (hp : s.gscPhase = .blWr) {w : U16} (hw : s.hist.getLast? = some w) :
    gscRequest s = some (.writeWord 0x11#8 w) := by
  rw [gscRequest, hp, hw]; rfl

theorem gscAnswer_blWr {s : State} (hp : s.gscPhase = .blWr) {w : U16} (hw : s.hist.getLast? = some w) :
    gscAnswer .ack s = .next (complete .gsc .ok (.loadInfo ⟨true, some w⟩)
      (logEvent (.tx .gsc (.writeWord 0x11#8 w) .ack) s)) := by
  have hend (ev : LogEvent) : gscContinue .ack (logEvent ev s) =
      complete .gsc .ok (.loadInfo ⟨true, some w⟩) (logEvent ev s) := by
    rw [gscContinue, logEvent_gscPhase, hp, ← hw]; rfl
  rw [gscAnswer, gscRequest_blWr hp hw]
  exact congrArg Host.Outcome.next (hend _)

/-- Settles O47: an empty history ends the load at its acceptance; else the one write, acknowledged or failed. -/
theorem loadBaselineResult : Obligations.LoadBaselineResult := by
  refine ⟨fun _ => decode_of_mask .gsLoadBaseline, fun s hr hb => ⟨s.freeCtr + 1, fun hempty => ?_,
    fun older w hhist => ?_⟩⟩
  · have hexec := exec_gsLoadBaseline_empty hb hempty
    rw [complete_acceptGsc hb] at hexec
    exact (Steps.single ((deliver_issue rfl hr.1).trans hexec)).run hr
  · have hlast : s.hist.getLast? = some w := by rw [hhist, List.getLast?_concat]
    have hne : s.hist ≠ [] := by rw [hhist]; exact List.concat_ne_nil w older
    have hstart := Steps.accepted hr rfl (exec_gsLoadBaseline_write hb hne)
    constructor
    · exact (hstart.append (.answer (gscAnswer_blWr rfl hlast))).run_complete hr hb
    · exact (hstart.append (.fail (gscRequest_blWr rfl hlast))).run_complete hr hb

/-! ### The save -/

theorem gscAnswer_blRd {s : State} (hp : s.gscPhase = .blRd) (w : U16) :
    gscAnswer (.word w) s = .next (saveAfterRead w (logEvent (.tx .gsc (.readWord 0x11#8) (.word w)) s)) := by
  rw [← toPhase_self hp]; rfl

@[simp] theorem runningAt_hist (p : GscPhase) (evs : List LogEvent) (s : State) :
    (runningAt p evs s).hist = s.hist := rfl

@[simp] theorem runningAt_calCap (p : GscPhase) (evs : List LogEvent) (s : State) :
    (runningAt p evs s).calCap = s.calCap := rfl

/-- A successful save, up to its completion, is an idle GSC's command with the history appended to. -/
theorem Steps.save {s : State} (hr : Ready s) (hb : s.gscBusy = false) (w : U16) :
    Steps s [issue .gsSaveBaseline, .i2c (.word w)] (complete .gsc .ok (.saveInfo w)
      (runningAt .blRd [.tx .gsc (.readWord 0x11#8) (.word w)] (appendHist w s))) :=
  (Steps.accepted hr rfl (exec_gsSaveBaseline hb)).append (.answer (gscAnswer_blRd rfl w))

/-- Settles O48: the one read, answered or failed. -/
theorem saveBaselineResult : Obligations.SaveBaselineResult := by
  refine ⟨fun _ => decode_of_mask .gsSaveBaseline, fun s hr hb => ⟨s.freeCtr + 1, fun w => ?_, ?_⟩⟩
  · rw [← histAppend_eq_tail]
    exact (Steps.save hr hb w).run_complete hr hb
  · exact ((Steps.accepted hr rfl (exec_gsSaveBaseline hb)).append (.fail rfl)).run_complete hr hb

/-- A chain writes neither the strap nor, between commands, the latch. -/
theorem Steps.keeps {s t : State} {es : List Input} (h : Steps s es t) (hc : s.cmd = none) : Keeps s t := by
  induction h with
  | nil => exact ⟨rfl, rfl, rfl⟩
  | cons hd _ ih =>
    have hk := deliver_keeps hc hd
    exact hk.trans (ih (hk.cmd.trans hc))

theorem Steps.ready {s t : State} {es : List Input} (h : Steps s es t) (hr : Ready s) : Ready t := by
  obtain ⟨-, hcap, hcmd⟩ := h.keeps hr.1
  exact ⟨hcmd.trans hr.1, hcap.symm ▸ hr.2⟩

/-- Successful saves, one after the other, fold their words into the history. -/
theorem Steps.saves {s : State} (hr : Ready s) (hb : s.gscBusy = false) (ws : List U16) :
    ∃ t, Steps s (ws.map fun w => [issue .gsSaveBaseline, Input.i2c (.word w)]).flatten t ∧ t.gscBusy = false ∧
      t.hist = ws.foldl (histAppend s.calCap) s.hist := by
  induction ws generalizing s with
  | nil => exact ⟨s, .nil s, hb, rfl⟩
  | cons w ws ih =>
    have hsave := Steps.save hr hb w
    obtain ⟨t, hsteps, hidle, hhist⟩ := ih (hsave.ready hr) rfl
    exact ⟨t, hsave.append hsteps, hidle, by simpa using hhist⟩

/-- Settles O49: the saves fold their words into the history, and each keeps its newest entries. -/
theorem historyKeepsNewestEntries : Obligations.HistoryKeepsNewestEntries := by
  intro s ws hr hb hle
  obtain ⟨t, hsteps, hidle, hhist⟩ := Steps.saves hr hb ws
  rw [foldl_histAppend hle] at hhist
  have hlen : t.hist.length ≤ t.calCap := by rw [hhist, (hsteps.keeps hr.1).calCap]; exact length_rtake_le ..
  exact ⟨_, hsteps.run hr, hidle, hlen, hhist⟩

end Sys2Proof.Machine
end

section
/-! Obligations of the particulate reader (44_particulate_reader.md). While PR_NEXT_READING waits, a byte has three
ends: a frame, a stall, or one more byte counted (`countByte`). Bytes that complete no frame and reach no threshold are
a chain of inputs that ends in `readingAt`, so a whole operation is such a chain and its last byte. -/

namespace Sys2Proof.Machine

open Sys2Proof

/-! ### The start and one answer -/

theorem exec_prNextReading {s : State} (hb : s.fsuBusy = false) (n : BitVec 24) :
    exec (.prNextReading n) s = .next (waitByte n (acceptFsu s)) := by
  unfold exec execPrNextReading
  exact startFsu_idle hb

/-- An FSU completion writes `RES_FSU` and the log, and the unit is idle (60_exceptions.md R242). -/
theorem complete_fsu (code : ResCode) (p : Payload) (s : State) :
    complete .fsu code p s =
      { s with
        resFsu := ⟨true, ⟨resCodeByte code, p⟩⟩
        fsuBusy := false
        fsuPhase := .idle
        log := s.log ++ [.done .fsu code] } := rfl

theorem windowValid_iff (s : State) :
    windowValid s = true ↔ s.fill = 32#6 ∧ frameValid (logicalWindow s) = true := by
  rw [windowValid, Bool.and_eq_true, beq_iff_eq]

/-- A byte read, pushed and, since it completes no frame, counted (44_particulate_reader.md R225). -/
def countByte (b : Byte) (s : State) : State :=
  setSince (satInc s.sinceCnt) (logEvent (.rx (.byte b)) (shiftIn b s))

section
variable {b : Byte} {s : State} (hp : s.fsuPhase = .prByte)
include hp

theorem fsuAnswer_byte_valid (hv : windowValid (shiftIn b s) = true) :
    fsuAnswer (.byte b) s = .next (complete .fsu .ok (.values (decodeFrameValues (logicalWindow (shiftIn b s))))
      (setSince 0#32 (logEvent (.rx (.byte b)) (shiftIn b s)))) := by
  have hv' : windowValid (shiftIn b (logEvent (.rx (.byte b)) s)) = true := hv
  rw [fsuAnswer_of_byte hp, pushByte, if_pos hv']; rfl

/-- A byte that completes no frame is counted, and then the stall test decides (44_particulate_reader.md R226). -/
theorem fsuAnswer_byte_invalid (hv : windowValid (shiftIn b s) = false) :
    fsuAnswer (.byte b) s = .next (prTests (countByte b s, none)) := by
  have hv' : ¬windowValid (shiftIn b (logEvent (.rx (.byte b)) s)) = true := Bool.not_eq_true _ ▸ hv
  rw [fsuAnswer_of_byte hp, pushByte, if_neg hv']; rfl

theorem fsuAnswer_byte_stalled (hv : windowValid (shiftIn b s) = false)
    (hn : s.prMax ≠ 0#24 ∧ s.prMax.toNat ≤ (countByte b s).sinceCnt.toNat) :
    fsuAnswer (.byte b) s =
      .next (complete .fsu .framingFault (.framingFault (countByte b s).sinceCnt) (countByte b s)) := by
  have hstall : isStalled (countByte b s).prMax (countByte b s) = true :=
    (isStalled_eq_decide ..).trans (decide_eq_true hn)
  rw [fsuAnswer_byte_invalid hp hv, prTests, if_pos hstall]

theorem fsuAnswer_byte_waits (hv : windowValid (shiftIn b s) = false)
    (hn : ¬(s.prMax ≠ 0#24 ∧ s.prMax.toNat ≤ (countByte b s).sinceCnt.toNat)) :
    fsuAnswer (.byte b) s = .next (countByte b s) := by
  have hstall : isStalled (countByte b s).prMax (countByte b s) = false :=
    (isStalled_eq_decide ..).trans (decide_eq_false hn)
  rw [fsuAnswer_byte_invalid hp hv, prTests, hstall, if_neg Bool.false_ne_true]

end

/-! ### Streams without a frame -/

/-- None of the pushes of these bytes completes a valid window. -/
def NoFrame (bs : List Byte) (s : State) : Prop :=
  ∀ k, 1 ≤ k → k ≤ bs.length → windowValid (shiftInAll (bs.take k) s) = false

theorem NoFrame.of_concat {bs : List Byte} {b : Byte} {s : State} (h : NoFrame (bs ++ [b]) s) :
    NoFrame bs s ∧ windowValid (shiftIn b (shiftInAll bs s)) = false := by
  refine ⟨fun k hk hle => ?_, ?_⟩
  · rw [← List.take_append_of_le_length (l₂ := [b]) hle]
    exact h k hk (by rw [List.length_append]; omega)
  · rw [← shiftInAll_concat, ← List.take_length (l := bs ++ [b])]
    exact h _ (by simp) le_rfl

/-- A window that cannot fill completes no frame (41_framesync.md R154). -/
theorem NoFrame.of_not_full {bs : List Byte} {s : State} (hle : s.fill.toNat + bs.length ≤ 31) : NoFrame bs s := by
  intro k _ hk
  have hlen : (bs.take k).length = k := List.length_take_of_le hk
  have hfill : (shiftInAll (bs.take k) s).fill.toNat = s.fill.toNat + k := by
    rw [fill_shiftInAll (by omega), hlen]
  refine Bool.eq_false_iff.mpr fun hv => ?_
  rw [windowValid_fill hv] at hfill
  have : (32#6).toNat = 32 := rfl
  omega

/-- PR_NEXT_READING, accepted in `s` with threshold `n`, after it has read and counted these bytes. -/
def readingAt (n : BitVec 24) (bs : List Byte) (s : State) : State :=
  { waitByte n (acceptFsu (shiftInAll bs s)) with
    sinceCnt := BitVec.ofNat 32 (min (s.sinceCnt.toNat + bs.length) (2 ^ 32 - 1))
    log := s.log ++ bs.map fun b => .rx (.byte b) }

theorem readingAt_sinceCnt_toNat (n : BitVec 24) (bs : List Byte) (s : State) :
    (readingAt n bs s).sinceCnt.toNat = min (s.sinceCnt.toNat + bs.length) (2 ^ 32 - 1) := by
  show (BitVec.ofNat 32 _).toNat = _
  rw [BitVec.toNat_ofNat]
  omega

theorem readingAt_nil (n : BitVec 24) (s : State) : readingAt n [] s = waitByte n (acceptFsu s) := by
  have hcnt : (readingAt n [] s).sinceCnt = s.sinceCnt := by
    have := s.sinceCnt.isLt
    apply BitVec.eq_of_toNat_eq
    rw [readingAt_sinceCnt_toNat, List.length_nil]
    omega
  calc readingAt n [] s
    _ = { waitByte n (acceptFsu s) with sinceCnt := (readingAt n [] s).sinceCnt, log := s.log ++ [] } := rfl
    _ = waitByte n (acceptFsu s) := by rw [hcnt, List.append_nil]; rfl

theorem readingAt_concat (n : BitVec 24) (bs : List Byte) (b : Byte) (s : State) :
    readingAt n (bs ++ [b]) s = countByte b (readingAt n bs s) := by
  have hcnt : (readingAt n (bs ++ [b]) s).sinceCnt = satInc (readingAt n bs s).sinceCnt := by
    apply BitVec.eq_of_toNat_eq
    rw [satInc_toNat, readingAt_sinceCnt_toNat, readingAt_sinceCnt_toNat, List.length_append, List.length_singleton]
    omega
  have hlog : (readingAt n (bs ++ [b]) s).log = (readingAt n bs s).log ++ [.rx (.byte b)] := by
    simp [readingAt]
  calc readingAt n (bs ++ [b]) s
    _ = { waitByte n (acceptFsu (shiftIn b (shiftInAll bs s))) with
          sinceCnt := (readingAt n (bs ++ [b]) s).sinceCnt, log := (readingAt n (bs ++ [b]) s).log } := by
      rw [← shiftInAll_concat]; rfl
    _ = countByte b (readingAt n bs s) := by rw [hcnt, hlog]; rfl

theorem uartBytes_concat (bs : List Byte) (b : Byte) : uartBytes (bs ++ [b]) = uartBytes bs ++ [.uart (.byte b)] :=
  List.map_append

/-- One more byte of the UART at the end of a chain. -/
theorem Steps.readByte {s m t : State} {e : Input} {bs : List Byte} {b : Byte} (h : Steps s (e :: uartBytes bs) m)
    (hb : fsuAnswer (.byte b) m = .next t) : Steps s (e :: uartBytes (bs ++ [b])) t := by
  rw [uartBytes_concat]
  exact h.append (.single hb)

/-- The command and bytes that complete no frame and reach no threshold leave the reader waiting. -/
theorem Steps.reading {s : State} (hr : Ready s) (hb : s.fsuBusy = false) {n : BitVec 24} {bs : List Byte}
    (hno : NoFrame bs s) (hn : n = 0#24 ∨ s.sinceCnt.toNat + bs.length < n.toNat) :
    Steps s (issue (.prNextReading n) :: uartBytes bs) (readingAt n bs s) := by
  induction bs using List.reverseRecOn with
  | nil =>
    rw [readingAt_nil]
    exact .single ((deliver_issue rfl hr.1).trans (exec_prNextReading hb n))
  | append_singleton bs b ih =>
    obtain ⟨hno, hv⟩ := NoFrame.of_concat hno
    rw [List.length_append, List.length_singleton] at hn
    have hwait : ¬(n ≠ 0#24 ∧ n.toNat ≤ (countByte b (readingAt n bs s)).sinceCnt.toNat) := by
      rw [← readingAt_concat, readingAt_sinceCnt_toNat, List.length_append, List.length_singleton]
      rintro ⟨hn0, hle⟩
      have := hn.resolve_left hn0
      omega
    rw [readingAt_concat]
    exact (ih hno (hn.imp_right fun h => by omega)).readByte (fsuAnswer_byte_waits (s := readingAt n bs s) rfl hv hwait)

/-! ### The obligations -/

/-- Settles O26: the table's row decodes the word, and acceptance only latches the operand and waits. -/
theorem nextReadingStarts : Obligations.NextReadingStarts :=
  ⟨fun _ => decode_of_mask .prNextReading, fun n _ hb => ⟨_, _, exec_prNextReading hb n⟩⟩

/-- Settles O27: the three ends of a byte, with the window after it. -/
theorem nextReadingTestsEachByte : Obligations.NextReadingTestsEachByte := by
  intro b s hr hp p valid cnt
  have hinvalid (h : ¬valid) : windowValid p = false := Bool.eq_false_iff.mpr (mt (windowValid_iff p).mp h)
  have hstep : step (s.withInput (.uart (.byte b))) = fsuAnswer (.byte b) s := step_withInput hr _
  rw [hstep]
  refine ⟨fun hv => ?_, fun hv hn => ?_, fun hv hn => fsuAnswer_byte_waits hp (hinvalid hv) hn⟩
  · rw [fsuAnswer_byte_valid hp ((windowValid_iff p).mpr hv), complete_fsu, decodeFrameValues_eq_ofFn,
      List.append_cons s.log]
    rfl
  · rw [fsuAnswer_byte_stalled hp (hinvalid hv) hn, complete_fsu, List.append_cons s.log]
    rfl

/-- Settles O28: the failure is logged and completes the operation; nothing is pushed. -/
theorem nextReadingUartFailure : Obligations.NextReadingUartFailure := by
  intro s hr hp
  rw [step_withInput hr, List.append_cons]
  exact fsuAnswer_of_fail hp

/-- Settles O29: the bytes before the last cannot fill the window, and with the last it is the frame. -/
theorem nextReadingReturnsFrameValues : Obligations.NextReadingReturnsFrameValues := by
  intro s n F hr hb hf hs hF hn
  obtain ⟨bs, b, hbs⟩ : ∃ bs b, F.toList = bs ++ [b] :=
    ⟨_, _, (List.dropLast_concat_getLast (List.ne_nil_of_length_pos (by simp))).symm⟩
  have hlen : bs.length = 31 := by simpa using (congrArg List.length hbs).symm
  have hfill : s.fill.toNat = 0 := congrArg BitVec.toNat hf
  have hcnt : s.sinceCnt.toNat = 0 := congrArg BitVec.toNat hs
  have hwin : logicalWindow (shiftIn b (shiftInAll bs s)) = F := by
    rw [← shiftInAll_concat, ← hbs, logicalWindow_shiftInAll_frame]
  have hv : windowValid (shiftIn b (shiftInAll bs s)) = true :=
    (windowValid_shiftIn_iff b _).mpr ⟨by rw [fill_shiftInAll] <;> omega, by rw [hwin, hF]⟩
  have hsteps := (Steps.reading hr hb (.of_not_full (bs := bs) (by omega))
    (hn.imp_right fun h => by omega)).readByte (fsuAnswer_byte_valid (s := readingAt n bs s) rfl hv)
  rw [← hbs] at hsteps
  refine ⟨_, hsteps.run hr, ?_, rfl, rfl, rfl, ?_⟩
  · rw [← decodeFrameValues_eq_ofFn, ← hwin]; rfl
  · rw [hbs, List.map_append, ← List.append_assoc]; rfl

/-- Settles O30: the bytes before the last do not reach the threshold, and the last one does. -/
theorem nextReadingFaultsAtThreshold : Obligations.NextReadingFaultsAtThreshold := by
  intro s n bs hr hb hs hn0 hlen hno
  have hpos : 0 < n.toNat := Nat.pos_of_ne_zero fun h => hn0 (BitVec.eq_of_toNat_eq h)
  have hcnt : (readingAt n bs s).sinceCnt = n.setWidth 32 := by
    have := n.isLt
    apply BitVec.eq_of_toNat_eq
    rw [readingAt_sinceCnt_toNat, hs, hlen, BitVec.toNat_setWidth_of_le (by decide)]
    show min (0 + n.toNat) _ = _
    omega
  obtain ⟨bs, b, rfl⟩ := bs.eq_nil_or_concat'.resolve_left (List.ne_nil_of_length_pos (hlen ▸ hpos))
  obtain ⟨hno, hv⟩ := NoFrame.of_concat hno
  rw [List.length_append, List.length_singleton] at hlen
  have hreached : n.toNat ≤ (countByte b (readingAt n bs s)).sinceCnt.toNat := by
    rw [← readingAt_concat, hcnt, BitVec.toNat_setWidth_of_le (by decide)]
  have hbelow : s.sinceCnt.toNat + bs.length < n.toNat := by
    rw [hs, ← hlen]
    show 0 + bs.length < _
    omega
  have hsteps := (Steps.reading hr hb hno (.inr hbelow)).readByte
    (fsuAnswer_byte_stalled (s := readingAt n bs s) rfl hv ⟨hn0, hreached⟩)
  rw [← readingAt_concat, hcnt] at hsteps
  exact ⟨_, hsteps.run hr, rfl, rfl, rfl, hcnt, rfl⟩

end Sys2Proof.Machine
end

section
/-! Obligations of command acceptance and of exceptions (60_exceptions.md). Every FSU command is `startFsu` and every
GSC command `startGsc` of some operation, so what an acceptance answers is said once for each unit. -/

namespace Sys2Proof.Machine

open Sys2Proof

/-! ### Every command as an acceptance by its unit -/

theorem exec_eq_startFsu {i : Instr} (h : opUnit i.op = .fsu) : ∃ op, exec i = startFsu op := by
  cases i with
  | fsPush b => exact ⟨fun s => pushEnd (pushByte b s), rfl⟩
  | fsIsStalled n => exact ⟨fun s => complete .fsu .ok (.stalled (isStalled n s)) s, rfl⟩
  | fsReset => exact ⟨fun s => complete .fsu .ok .empty (clearSync s), rfl⟩
  | prNextReading n => exact ⟨waitByte n, rfl⟩
  | _ => cases h

theorem exec_eq_startGsc {i : Instr} (h : opUnit i.op = .gsc) : ∃ op, exec i = startGsc op := by
  cases i with
  | gsStartApp n => exact ⟨fun s => startAppLoop (initTries n s), rfl⟩
  | gsSwitchMode t => exact ⟨fun s => toPhase .smRead (initSwitch (operandFT t) s), rfl⟩
  | gsLoadBaseline =>
    exact ⟨fun s => if s.hist = [] then complete .gsc .ok (.loadInfo ⟨false, none⟩) s else toPhase .blWr s, rfl⟩
  | gsPollOnce | gsSaveBaseline | gsSwReset | gsCheckHwId => exact ⟨toPhase _, rfl⟩
  | _ => cases h

/-- Settles O7: a CDC command completes at once, and any other is accepted or refused by its unit. -/
theorem commandRefusedExactlyWhenUnitBusy : Obligations.CommandRefusedExactlyWhenUnitBusy := by
  refine fun i s => ⟨fun h => ?_, fun h => ?_, fun h => ?_⟩
  · obtain ⟨_, _, -, hexec⟩ := exec_cdc_complete h s.dbuf
    exact ⟨_, hexec s fun _ => rfl⟩
  · obtain ⟨op, hop⟩ := exec_eq_startFsu h
    rw [hop]
    exact ⟨startFsu_busy, fun hb => ⟨_, startFsu_idle hb⟩⟩
  · obtain ⟨op, hop⟩ := exec_eq_startGsc h
    rw [hop]
    exact ⟨startGsc_busy, fun hb => ⟨_, startGsc_idle hb⟩⟩

/-! ### A failed transaction -/

/-- Settles O33: the failed answer is logged, and the completion that follows writes only the result and the idle
unit. -/
theorem transportFailureEndsOperation : Obligations.TransportFailureEndsOperation := by
  intro s req hr hreq
  rw [step_withInput hr]
  refine (gscAnswer_of_fail hreq).trans ?_
  rw [complete_gsc, logEvent_log, List.append_assoc]
  rfl

/-! ### The word in the latch -/

theorem runCmd_of_decode {s : State} {w : CmdWord} {i : Instr} (hc : s.cmd = some w) (hd : decode w = .ok i) :
    runCmd s = exec i (takeCmd s) := by
  simp only [runCmd, hc, hd]

/-- A decoded word in the latch is run before any input. -/
theorem step_of_cmd {s : State} {w : CmdWord} {i : Instr} (hp : 1 ≤ s.calCap) (hc : s.cmd = some w)
    (hd : decode w = .ok i) : step s = exec i (takeCmd s) := by
  have hrun : step s = runCmd s := by rw [step, if_neg (Nat.ne_of_gt hp), hc]
  rw [hrun, runCmd_of_decode hc hd]

/-- Settles O6: a step runs the latch, and a word written between commands goes through the latch in one step. -/
theorem stepRunsDecodedCommand : Obligations.StepRunsDecodedCommand := by
  refine fun s w i hp hd => ⟨step_of_cmd (s := hostWriteCmd w s) hp rfl hd, fun hc => ?_⟩
  calc step (s.withInput (.writeCmd w))
    _ = runCmd (hostWriteCmd w s) := step_withInput ⟨hc, hp⟩ _
    _ = exec i (takeCmd (hostWriteCmd w s)) := runCmd_of_decode rfl hd
    _ = exec i s := by rw [takeCmd_hostWriteCmd hc]

end Sys2Proof.Machine
end

section
/-! Obligations of block reset and of fairness (70_reset_and_hazards.md). `stepsLeft` bounds the answers and ticks that
a bounded operation of the GSC still waits for. An input that the GSC awaits lowers it, any other input but `rst` leaves
it as it is, and weak fairness brings an awaited input; so the operation ends. -/

namespace Sys2Proof.Machine

open Sys2Proof

/-- Settles O57: `rst` answers the power-on state with the history, the log, the strap and `stop` kept. -/
theorem blockResetResult : Obligations.BlockResetResult := fun s hr =>
  ⟨blockReset s, step_withInput hr .rst, rfl, rfl, rfl, rfl, rfl, rfl, bstat_eq_zero rfl rfl rfl rfl rfl rfl rfl,
    rfl, rfl, rfl, rfl, rfl, rfl, rfl, rfl, rfl, rfl, rfl, rfl, rfl⟩

/-! ### How long an operation of the GSC can still last -/

/-- If the GSC is in a handshake, the handshake has a bound (70_reset_and_hazards.md R291). -/
def HandshakeBounded (s : State) : Prop := inStartApp s.gscPhase = true → s.maxTries ≠ 0#24

/-- The most answers and ticks that the GSC waits for from a phase on: a bounded handshake waits for at most two answers
a try (42_gas_controller.md R170, R173), and a drive-mode switch cools for at most 600 ticks (R184). -/
def stepsLeftIn (s : State) : GscPhase → Nat
  | .idle => 0
  | .saStatus => 2 * (s.maxTries.toNat - s.tries.toNat) + 2
  | .saErr | .saStart => 2 * (s.maxTries.toNat - s.tries.toNat) + 1
  | .smRead => 603
  | .smIdleWr => 602
  | .smCool => 601 - s.coolCnt.toNat
  | .poStatus => 2
  | .smTgtWr | .poErr | .poResult | .blWr | .blRd | .rsWr | .idRd => 1

@[inherit_doc stepsLeftIn] def stepsLeft (s : State) : Nat := stepsLeftIn s s.gscPhase

theorem stepsLeft_of_phase {s : State} {p : GscPhase} (hp : s.gscPhase = p) : stepsLeft s = stepsLeftIn s p :=
  congrArg _ hp

theorem GscInv.stepsLeft_pos {s : State} (hi : GscInv s) (hp : s.gscPhase ≠ .idle) : 0 < stepsLeft s := by
  unfold stepsLeft
  cases h : s.gscPhase with
  | idle => exact absurd h hp
  | smCool => have := hi.cool_lt h; simp only [stepsLeftIn]; omega
  | _ => exact Nat.succ_pos _

/-- The operation comes nearer to its end, and keeps its bound. -/
def Advances (s t : State) : Prop := HandshakeBounded t ∧ stepsLeft t < stepsLeft s

theorem Advances.of_idle {s t : State} (hs : 0 < stepsLeft s) (ht : t.gscPhase = .idle) : Advances s t :=
  ⟨fun h => absurd ((congrArg inStartApp ht).symm.trans h) Bool.false_ne_true, (stepsLeft_of_phase ht).trans_lt hs⟩

/-- The head of the handshake's loop times out or uses up a try. -/
theorem Advances.startAppLoop {s : State} (hi : GscInv s) (hb : HandshakeBounded s)
    (hp : s.gscPhase = .saErr ∨ s.gscPhase = .saStart) : Advances s (startAppLoop s) := by
  have hsa : inStartApp s.gscPhase = true := by rcases hp with hp | hp <;> rw [hp] <;> rfl
  have hsteps : stepsLeft s = 2 * (s.maxTries.toNat - s.tries.toNat) + 1 := by
    rcases hp with hp | hp <;> exact stepsLeft_of_phase hp
  rcases startAppLoop_cases s with ⟨-, -, h⟩ | ⟨hne, h⟩ <;> rw [h]
  · exact .of_idle (by omega) rfl
  · have hle : s.tries.toNat ≤ s.maxTries.toNat := (hi.tries_le hsa).2 (hb hsa)
    have hlt : s.tries.toNat ≠ s.maxTries.toNat := fun h => hne ⟨hb hsa, BitVec.eq_of_toNat_eq h⟩
    have hcount : (countTry s).tries.toNat = s.tries.toNat + 1 := by
      have := s.maxTries.isLt
      rw [countTry_tries, satInc_toNat]
      omega
    have hafter : stepsLeft (toPhase .saStatus (countTry s)) =
        2 * (s.maxTries.toNat - (countTry s).tries.toNat) + 2 := rfl
    exact ⟨fun _ => hb hsa, by omega⟩

theorem Advances.startAppAfterStatus {s : State} (hb : HandshakeBounded s) (hp : s.gscPhase = .saStatus) (sb : Byte) :
    Advances s (startAppAfterStatus sb s) := by
  have hmax : s.maxTries ≠ 0#24 := hb (by rw [hp]; rfl)
  have hsteps : stepsLeft s = stepsLeftIn s .saStatus := stepsLeft_of_phase hp
  rcases startAppAfterStatus_cases sb s with h | h | h | h <;> rw [h]
  · exact ⟨fun _ => hmax, hsteps ▸ Nat.lt_succ_self _⟩
  · exact .of_idle (hsteps ▸ Nat.succ_pos _) rfl
  · exact .of_idle (hsteps ▸ Nat.succ_pos _) rfl
  · exact ⟨fun _ => hmax, hsteps ▸ Nat.lt_succ_self _⟩

theorem Advances.switchModeAfterRead {s : State} (hp : s.gscPhase = .smRead) (mb : Byte) :
    Advances s (switchModeAfterRead mb s) := by
  have hsteps : stepsLeft s = 603 := stepsLeft_of_phase hp
  rcases switchModeAfterRead_cases mb s with h | ⟨-, -, h⟩ | ⟨-, -, h⟩ <;> rw [h]
  · exact .of_idle (by omega) rfl
  · exact ⟨nofun, hsteps ▸ (by decide : 602 < 603)⟩
  · exact ⟨nofun, hsteps ▸ (by decide : 1 < 603)⟩

theorem Advances.pollAfterStatus {s : State} (hp : s.gscPhase = .poStatus) (sb : Byte) :
    Advances s (pollAfterStatus sb s) := by
  have hsteps : stepsLeft s = 2 := stepsLeft_of_phase hp
  rcases pollAfterStatus_cases sb s with h | h | h <;> rw [h]
  · exact ⟨nofun, hsteps ▸ Nat.one_lt_two⟩
  · exact ⟨nofun, hsteps ▸ Nat.one_lt_two⟩
  · exact .of_idle (by omega) rfl

/-- The log is no part of what is left to do. -/
theorem Advances.of_logEvent {ev : LogEvent} {s t : State} (h : Advances (logEvent ev s) t) : Advances s t := h

theorem GscInv.logEvent {s : State} (h : GscInv s) (ev : LogEvent) : GscInv (logEvent ev s) :=
  FsuFrame.gscInv (by constructor <;> rfl) h

/-- Every continuation ends the operation or goes on to a phase nearer to its end. -/
theorem gscContinue_advances {a : I2CAnswer} {s : State} {req : I2CRequest} (hi : GscInv s) (hb : HandshakeBounded s)
    (hr : gscRequest s = some req) (hf : answerFits req a = true) (ha : a ≠ .fail) : Advances s (gscContinue a s) := by
  have hidle : s.gscPhase ≠ .idle := fun h => by rw [(gscRequest_none_iff s).mpr (.inl h)] at hr; cases hr
  have hpos : 0 < stepsLeft s := hi.stepsLeft_pos hidle
  rcases gscContinue_cases hr hf ha with ⟨b, hp, -, h⟩ | ⟨b, hp, -, h⟩ | ⟨hp, -, h⟩ | ⟨b, hp, -, h⟩ | ⟨hp, -, h⟩ |
    ⟨-, -, h⟩ | ⟨b, hp, -, h⟩ | ⟨b, -, -, h⟩ | ⟨b, -, -, h⟩ | ⟨-, -, h⟩ | ⟨w, -, -, h⟩ | ⟨-, -, h⟩ | ⟨b, -, -, h⟩ <;>
    rw [h]
  · exact .startAppAfterStatus hb hp b
  · exact .of_logEvent (.startAppLoop (hi.logEvent _) hb (.inl hp))
  · exact .startAppLoop hi hb (.inr hp)
  · exact .switchModeAfterRead hp b
  · exact ⟨nofun, stepsLeft_of_phase hp ▸ (by decide : 601 < 602)⟩
  · exact .of_idle hpos rfl
  · exact .pollAfterStatus hp b
  all_goals exact .of_idle hpos rfl

theorem gscAnswer_advances {a : I2CAnswer} {s t : State} (hi : GscInv s) (hb : HandshakeBounded s)
    (hreq : gscRequest s ≠ none) (h : gscAnswer a s = .next t) : Advances s t := by
  rcases gscAnswer_next h with ⟨hnone, -⟩ | ⟨req, hr, hf, ⟨-, rfl⟩ | ⟨ha, rfl⟩⟩
  · exact absurd hnone hreq
  · exact .of_idle (hi.stepsLeft_pos fun h => hreq ((gscRequest_none_iff s).mpr (.inl h))) rfl
  · exact .of_logEvent (gscContinue_advances (hi.logEvent _) hb hr hf ha)

/-- A tick of the cooldown cancels, counts, or goes on to the target write. -/
theorem gscTick_advances {s t : State} (hi : GscInv s) (hp : s.gscPhase = .smCool) (h : gscTick s = .next t) :
    Advances s t := by
  have hlt : s.coolCnt.toNat < 600 := hi.cool_lt hp
  have hsteps : stepsLeft s = 601 - s.coolCnt.toNat := stepsLeft_of_phase hp
  rcases gscTick_next h with ⟨hne, -⟩ | ⟨-, rfl⟩
  · exact absurd hp hne
  rcases cooldownTick_cases (logEvent (.tick s.stop) s) with ⟨-, h⟩ | ⟨-, -, h⟩ | ⟨-, -, h⟩ <;> rw [h]
  · exact .of_idle (by omega) rfl
  · have hcnt : (s.coolCnt + 1#10).toNat = s.coolCnt.toNat + 1 := coolCnt_add_one hlt
    have hafter : stepsLeft (setCoolCnt (s.coolCnt + 1#10) s) = 601 - (s.coolCnt + 1#10).toNat :=
      stepsLeft_of_phase (s := setCoolCnt (s.coolCnt + 1#10) s) hp
    refine ⟨fun hsa => ?_, show stepsLeft (setCoolCnt (s.coolCnt + 1#10) s) < stepsLeft s by omega⟩
    exact absurd ((congrArg inStartApp hp).symm.trans hsa) Bool.false_ne_true
  · exact ⟨nofun, hsteps ▸ (by omega : 1 < 601 - s.coolCnt.toNat)⟩

/-! ### One input: the operation advances or waits -/

/-- The input that the GSC waits for. -/
def Awaits (s : State) (e : Input) : Prop :=
  (e = .tick ∧ s.gscPhase = .smCool) ∨ ((∃ a, e = .i2c a) ∧ gscRequest s ≠ none)

theorem deliver_advances {e : Input} {s t : State} (hi : GscInv s) (hb : HandshakeBounded s) (he : Awaits s e)
    (h : deliver e s = .next t) : Advances s t := by
  obtain ⟨rfl, hp⟩ | ⟨⟨a, rfl⟩, hr⟩ := he
  · exact gscTick_advances hi hp h
  · exact gscAnswer_advances hi hb hr h

/-- The operation waits: nothing of it has changed. -/
structure Waits (s t : State) : Prop where
  phase : t.gscPhase = s.gscPhase
  stepsLeft : Machine.stepsLeft t = Machine.stepsLeft s
  bounded : HandshakeBounded s → HandshakeBounded t

theorem Waits.refl (s : State) : Waits s s := ⟨rfl, rfl, id⟩

theorem Waits.trans {s t u : State} (h : Waits s t) (h' : Waits t u) : Waits s u :=
  ⟨h'.phase.trans h.phase, h'.stepsLeft.trans h.stepsLeft, h'.bounded ∘ h.bounded⟩

theorem FsuFrame.waits {s t : State} (h : FsuFrame s t) : Waits s t where
  phase := h.gscPhase
  stepsLeft := by
    rw [stepsLeft_of_phase h.gscPhase, Machine.stepsLeft]
    cases s.gscPhase <;> simp only [stepsLeftIn, h.tries, h.maxTries, h.coolCnt]
  bounded := by rw [HandshakeBounded, HandshakeBounded, h.gscPhase, h.maxTries]; exact id

/-- A write of `dbuf` is no part of what is left to do. -/
theorem Waits.of_dbuf {s t : State} {d : Vector Byte 32} (h : Waits { s with dbuf := d } t) : Waits s t :=
  ⟨h.phase, h.stepsLeft, h.bounded⟩

/-- What one input does to a busy GSC whose operation has a bound. -/
theorem deliver_advances_or_waits {e : Input} {s t : State} (hi : GscInv s) (hbusy : s.gscBusy = true)
    (hb : HandshakeBounded s) (h : deliver e s = .next t) : Advances s t ∨ Waits s t := by
  by_cases he : Awaits s e
  · exact .inl (deliver_advances hi hb he h)
  rw [Awaits, not_or] at he
  obtain ⟨htick, hi2c⟩ := he
  cases e with
  | i2c a =>
    rcases gscAnswer_next h with ⟨-, rfl⟩ | ⟨req, hr, -⟩
    · exact .inr (.refl _)
    · exact absurd ⟨⟨a, rfl⟩, by rw [hr]; nofun⟩ hi2c
  | tick =>
    rcases gscTick_next h with ⟨-, rfl⟩ | ⟨hp, -⟩
    · exact .inr (.refl _)
    · exact absurd ⟨rfl, hp⟩ htick
  | rst => cases h; exact .inl (.of_idle (hi.stepsLeft_pos (hi.busy_iff.mp hbusy)) rfl)
  | writeCmd | writeDbuf | driveStop | uart =>
    exact .inr (deliver_fsuFrame hbusy (by nofun) (by nofun) (by nofun) h).waits.of_dbuf

/-! ### Infinite runs -/

/-- A run between commands, from the invariant on, delivers one input a step and keeps the invariant. -/
structure InvRun (env : Nat → Input) (run : Nat → State) : Prop where
  inv : ∀ n, Inv (run n)
  deliver : ∀ n, deliver (env n) (setInputs [] (run n)) = .next (run (n + 1))

theorem IsRun.invRun {env : Nat → Input} {run : Nat → State} (h : IsRun env run) (hc : (run 0).cmd = none)
    (hi : Inv (run 0)) : InvRun env run := by
  have hdeliver {n : Nat} (hc : (run n).cmd = none) (hi : Inv (run n)) :
      Machine.deliver (env n) (setInputs [] (run n)) = .next (run (n + 1)) :=
    (step_cons ⟨hc, hi.calCap_pos⟩ (env n) []).symm.trans (h n)
  have hall (n : Nat) : (run n).cmd = none ∧ Inv (run n) := by
    induction n with
    | zero => exact ⟨hc, hi⟩
    | succ n ih =>
      obtain ⟨hc, hi⟩ := ih
      have hd := hdeliver hc hi
      exact ⟨(deliver_keeps (s := setInputs [] (run n)) hc hd).cmd.trans hc, deliver_inv (hi.setInputs []) hd⟩
  exact ⟨fun n => (hall n).2, fun n => hdeliver (hall n).1 (hall n).2⟩

section
variable {env : Nat → Input} {run : Nat → State}

theorem InvRun.gscInv (hrun : InvRun env run) (n : Nat) : GscInv (setInputs [] (run n)) :=
  ((inv_iff _).mp ((hrun.inv n).setInputs [])).2.2

theorem InvRun.busy_iff (hrun : InvRun env run) (n : Nat) : (run n).gscBusy = true ↔ (run n).gscPhase ≠ .idle :=
  (hrun.inv n).gscBusy_iff

/-- Until the operation advances, it waits. -/
theorem InvRun.waits (hrun : InvRun env run) {n : Nat} (hbusy : (run n).gscBusy = true) (hb : HandshakeBounded (run n))
    (hno : ∀ m, n ≤ m → ¬Advances (run n) (run m)) {m : Nat} (hm : n ≤ m) : Waits (run n) (run m) := by
  induction m, hm using Nat.le_induction with
  | base => exact .refl _
  | succ m hm hw =>
    have hbusy' : (run m).gscBusy = true := by
      rw [hrun.busy_iff, hw.phase]
      exact (hrun.busy_iff n).mp hbusy
    rcases deliver_advances_or_waits (s := setInputs [] (run m)) (hrun.gscInv m) hbusy' (hw.bounded hb)
      (hrun.deliver m) with ⟨hb', hlt⟩ | hw'
    · exact absurd ⟨hb', hw.stepsLeft ▸ hlt⟩ (hno (m + 1) (Nat.le_succ_of_le hm))
    · exact hw.trans ⟨hw'.phase, hw'.stepsLeft, hw'.bounded⟩

/-- Weak fairness brings an input that the GSC awaits, if its phase stays the same. -/
theorem WeaklyFair.awaited (hfair : WeaklyFair env run) {n : Nat} (hidle : (run n).gscPhase ≠ .idle)
    (hsame : ∀ m, n ≤ m → (run m).gscPhase = (run n).gscPhase) : ∃ m, n ≤ m ∧ Awaits (run m) (env m) := by
  obtain ⟨htick, hi2c, -⟩ := hfair n
  by_cases hp : (run n).gscPhase = .smCool
  · obtain ⟨m, hm, he⟩ := htick
    have hpm := (hsame m hm).trans hp
    exact ⟨m, hm, .inl ⟨he.resolve_right (not_not.mpr hpm), hpm⟩⟩
  · obtain ⟨m, hm, he⟩ := hi2c
    have hreq : gscRequest (run m) ≠ none := by
      rw [Ne, gscRequest_none_iff, hsame m hm]
      exact not_or.mpr ⟨hidle, hp⟩
    exact ⟨m, hm, .inr ⟨he.resolve_right hreq, hreq⟩⟩

theorem InvRun.eventually_advances (hrun : InvRun env run) (hfair : WeaklyFair env run) {n : Nat}
    (hbusy : (run n).gscBusy = true) (hb : HandshakeBounded (run n)) : ∃ m, n ≤ m ∧ Advances (run n) (run m) := by
  by_contra! hno
  have hwaits {m : Nat} (hm : n ≤ m) : Waits (run n) (run m) := hrun.waits hbusy hb hno hm
  obtain ⟨m, hm, he⟩ := hfair.awaited ((hrun.busy_iff n).mp hbusy) fun m hm => (hwaits hm).phase
  have ⟨hb', hlt⟩ : Advances (run m) (run (m + 1)) :=
    deliver_advances (s := setInputs [] (run m)) (hrun.gscInv m) ((hwaits hm).bounded hb) he (hrun.deliver m)
  exact hno (m + 1) (Nat.le_succ_of_le hm) ⟨hb', (hwaits hm).stepsLeft ▸ hlt⟩

theorem InvRun.eventually_idle (hrun : InvRun env run) (hfair : WeaklyFair env run) {n : Nat}
    (hb : HandshakeBounded (run n)) : ∃ m, n ≤ m ∧ (run m).gscBusy = false := by
  induction hk : stepsLeft (run n) using Nat.strong_induction_on generalizing n with
  | h k ih =>
    cases hbusy : (run n).gscBusy with
    | false => exact ⟨n, Nat.le_refl n, hbusy⟩
    | true =>
      obtain ⟨m, hm, hb', hlt⟩ := hrun.eventually_advances hfair hbusy hb
      obtain ⟨m', hm', hidle⟩ := ih _ (hk ▸ hlt) hb' rfl
      exact ⟨m', hm.trans hm', hidle⟩

end

/-- Settles O60: the operation advances again and again, and has only so many steps left. -/
theorem busyGscCompletesUnderFairness : Obligations.BusyGscCompletesUnderFairness :=
  fun _ _ hrun hfair hc hi _ _ hb => (hrun.invRun hc hi).eventually_idle hfair hb

end Sys2Proof.Machine
end
